-- ==== Sys2Proof/Word.lean ====
section
/-! DEFINITION. The two word types of the engine and the mathematical readings of a byte (spec rules R8, R82). -/

namespace Sys2Proof

/-- One byte: a bus value, a text byte, a byte of a command packet. -/
abbrev Byte := BitVec 8

/-- A millisecond count of TIME_BITS = 32 bits (R7, R35). -/
abbrev Time := BitVec 32

end Sys2Proof
end

