-- ==== Sys2Proof/Config.lean ====
section
/-! DEFINITION. What is fixed for the machine: the constants of rule R6, the decided capacities of rule R7, the
configuration record of rule R7, and the values the spec leaves open (opaque: no proof can see them). -/

namespace Sys2Proof

/-- COLS, R6. -/
def Config.cols : Nat := 16
/-- ROWS, R6. -/
def Config.rows : Nat := 10
/-- NCELLS, the wrap constant of both wrap rules, R6. -/
def Config.nCells : Nat := 160
/-- CH_MIN, R6. -/
def Config.chMin : Nat := 32
/-- CH_MAX, R6. -/
def Config.chMax : Nat := 126
/-- CH_BLOCK, the reserved block glyph, R6, R75. -/
def Config.chBlock : Nat := 127
/-- NPAGES, R6. -/
def Config.nPages : Nat := 4
/-- DIGIT_WIDTH, R6. -/
def Config.digitWidth : Nat := 3
/-- DIGIT_HEIGHT, R6. -/
def Config.digitHeight : Nat := 5
/-- SPACE_WIDTH, R6. -/
def Config.spaceWidth : Nat := 1
/-- TEXT_MAX, the capacity of the scroll text buffer and of a text operand (R7, D24). -/
def Config.textMax : Nat := 255

/-- The configuration record of R7: the parameters the source leaves open. The procedures of the machine take it
as an argument, so that a claim can be stated for every value of it. -/
structure Params where
  /-- TEXT_ADDR_AFTER_EACH: is the address sent again after each character of a text run (R125, D9)? -/
  textAddrAfterEach : Bool
  /-- WINDOW_END_INCLUSIVE: does the window include its end address (R172, D20)? -/
  windowEndInclusive : Bool
  /-- GLYPH: the big-digit table; digit, glyph row from the top, glyph column from the left; true = filled (R36, D17). -/
  glyph : Fin 10 → Fin 5 → Fin 3 → Bool
  /-- T_SETTLE, the hold time of each strobe level, in an unstated unit of time (R7, D8). -/
  tSettle : Nat
  /-- T_CLEAR, the hold time of the clear line, in the same unit (R7, D8). -/
  tClear : Nat

/-- GLYPH is described and never printed (R36, U12): a free value (log entry 8). -/
opaque Config.glyph : Fin 10 → Fin 5 → Fin 3 → Bool

/-- T_SETTLE less one unit: T_SETTLE is a positive duration without a number (R7, U11): a free value (log entry 7). -/
opaque Config.tSettleLessOne : Nat

/-- T_CLEAR less one unit: T_CLEAR is a positive duration without a number (R7, U11): a free value (log entry 7). -/
opaque Config.tClearLessOne : Nat

end Sys2Proof
end

