-- ==== Sys2Proof/Syntax.lean ====
section
/-! DEFINITION. The nineteen commands (R81), one constructor per row of spec/opcode_table.json, over decoded operands
(R82): positions, the page and the advance offset are mathematical integers; character codes, digits and numbers
naturals; times 32-bit words; a text the list of its bytes, whose length is the packet's len field (R83). -/

namespace Sys2Proof

/-- A command of the engine, in the order of the opcode map R81. -/
inductive Instr where
  /-- SET_CURSOR col, row (0x01, F2, R120). -/
  | setCursor (col row : Int)
  /-- ADVANCE n (0x02, FN, R122). -/
  | advance (n : Int)
  /-- WRITE_TEXT len, text (0x03, FS, R124). -/
  | writeText (text : List Byte)
  /-- WRITE_CHAR ch (0x04, F1, R127). -/
  | writeChar (ch : Nat)
  /-- WRITE_CHAR_AT col, row, ch (0x05, F3, R128). -/
  | writeCharAt (col row : Int) (ch : Nat)
  /-- WRITE_BLOCK_AT col, row (0x06, F2, R129). -/
  | writeBlockAt (col row : Int)
  /-- CLEAR (0x07, F0, R130). -/
  | clear
  /-- CI_BEGIN (0x08, F0, R140). -/
  | ciBegin
  /-- CI_SHOW (0x09, F0, R141). -/
  | ciShow
  /-- CI_HIDE (0x0A, F0, R142). -/
  | ciHide
  /-- PG_BEGIN (0x0B, F0, R144). -/
  | pgBegin
  /-- PG_SELECT page (0x0C, F1, R145). -/
  | pgSelect (page : Int)
  /-- BIG_NUMBER col, row, number (0x0D, FB, R155). -/
  | bigNumber (col row : Int) (number : Nat)
  /-- BIG_DIGIT col, row, digit (0x0E, F3, R157). -/
  | bigDigit (col row : Int) (digit : Nat)
  /-- SC_CONFIG scol, srow, ecol, erow, delay, len, text (0x10, FC, R170). -/
  | scConfig (scol srow ecol erow : Int) (delay : Time) (text : List Byte)
  /-- SC_UPDATE now (0x11, FT, R176). -/
  | scUpdate (now : Time)
  /-- SC_SET_TEXT len, text (0x12, FS, R182). -/
  | scSetText (text : List Byte)
  /-- SC_ENABLE (0x13, F0, R184). -/
  | scEnable
  /-- SC_DISABLE (0x14, F0, R185). -/
  | scDisable
  deriving DecidableEq, Repr

end Sys2Proof
end

