-- ==== Sys2Proof/WellFormed.lean ====
section
/-! DEFINITION. Which commands can be written as a packet: every operand in the range its field can hold (R82), every
text no longer than TEXT_MAX (R83). -/

namespace Sys2Proof

/-- The range of a sign-extended byte: col, row, scol, srow, ecol, erow, page (R82). -/
abbrev InSext8 (v : Int) : Prop := -128 ≤ v ∧ v ≤ 127

/-- The range of the ADVANCE offset (R82). -/
abbrev InSext16 (v : Int) : Prop := -32768 ≤ v ∧ v ≤ 32767

/-- The range of a zero-extended byte: ch, digit (R82). -/
abbrev InZext8 (v : Nat) : Prop := v ≤ 255

/-- The range of the BIG_NUMBER operand (R82). -/
abbrev InZext16 (v : Nat) : Prop := v ≤ 65535

/-- A text operand fits its 8-bit length field (R83). -/
abbrev TextFits (text : List Byte) : Prop := text.length ≤ Config.textMax

/-- The command's operands lie in the ranges of R82 and R83. -/
def Instr.wf : Instr → Bool
  | .setCursor col row => decide (InSext8 col ∧ InSext8 row)
  | .advance n => decide (InSext16 n)
  | .writeText text => decide (TextFits text)
  | .writeChar ch => decide (InZext8 ch)
  | .writeCharAt col row ch => decide (InSext8 col ∧ InSext8 row ∧ InZext8 ch)
  | .writeBlockAt col row => decide (InSext8 col ∧ InSext8 row)
  | .clear => true
  | .ciBegin => true
  | .ciShow => true
  | .ciHide => true
  | .pgBegin => true
  | .pgSelect page => decide (InSext8 page)
  | .bigNumber col row number => decide (InSext8 col ∧ InSext8 row ∧ InZext16 number)
  | .bigDigit col row digit => decide (InSext8 col ∧ InSext8 row ∧ InZext8 digit)
  | .scConfig scol srow ecol erow _ text =>
      decide (InSext8 scol ∧ InSext8 srow ∧ InSext8 ecol ∧ InSext8 erow ∧ TextFits text)
  | .scUpdate _ => true
  | .scSetText text => decide (TextFits text)
  | .scEnable => true
  | .scDisable => true

/-- A well-formed command, as a proposition `decide` can run on. -/
abbrev Instr.WellFormed (i : Instr) : Prop := i.wf = true

end Sys2Proof
end

