-- ==== Sys2Proof/Decode.lean ====
section
/-! DEFINITION. The command packets of spec/30_encoding.md Part B: the opcode map and formats (R80, R81), operand
decoding (R82, R83), reserved encodings (R84), length determination (R85); the decoder, total on any bytes; the encoder;
and the layout of an opcode-table word as packet bytes. -/

namespace Sys2Proof

/-- Why a byte stream yields no command. -/
inductive DecodeError where
  /-- The stream is empty: no command is waiting. -/
  | noPacket
  /-- The opcode byte is one of 0x00, 0x0F, 0x15..0xFF (R84, U4). -/
  | unassignedOpcode (op : Byte)
  /-- The stream ends before the packet of this opcode does (R84, U4). -/
  | shortPacket (op : Byte)
  deriving DecidableEq, Repr

/-- The nine packet formats of R80. -/
inductive Format where
  | f0 | f1 | f2 | f3 | fn | fb | fs | ft | fc
  deriving DecidableEq, Repr

/-- The format the opcode alone fixes (R81, R85); none for an unassigned opcode (R84). -/
def formatOf (op : Byte) : Option Format :=
  match op.toNat with
  | 0x01 => some .f2
  | 0x02 => some .fn
  | 0x03 => some .fs
  | 0x04 => some .f1
  | 0x05 => some .f3
  | 0x06 => some .f2
  | 0x07 => some .f0
  | 0x08 => some .f0
  | 0x09 => some .f0
  | 0x0A => some .f0
  | 0x0B => some .f0
  | 0x0C => some .f1
  | 0x0D => some .fb
  | 0x0E => some .f3
  | 0x10 => some .fc
  | 0x11 => some .ft
  | 0x12 => some .fs
  | 0x13 => some .f0
  | 0x14 => some .f0
  | _ => none

/-- The total length of the packet at the head of a stream (R80, R85); a missing len byte counts as 0, and an
unassigned opcode as one byte. -/
def packetLength : List Byte → Nat
  | [] => 0
  | op :: bs =>
    match formatOf op with
    | none => 1
    | some .f0 => 1
    | some .f1 => 2
    | some .f2 => 3
    | some .f3 => 4
    | some .fn => 3
    | some .fb => 5
    | some .fs => 2 + (bs.getD 0 0).toNat
    | some .ft => 5
    | some .fc => 10 + (bs.getD 8 0).toNat

/-- `sext_8` (R8, R82). -/
def sext8 (b : Byte) : Int := b.toInt
/-- `zext_8` (R8, R82). -/
def zext8 (b : Byte) : Nat := b.toNat
/-- Two bytes, the low one first (R54, R80). -/
def le16 (lo hi : Byte) : BitVec 16 := hi ++ lo
/-- Four bytes, the least significant first (R54, R80). -/
def le32 (b0 b1 b2 b3 : Byte) : BitVec 32 := b3 ++ b2 ++ b1 ++ b0

/-- Format F0: no operand byte. -/
def readF0 (i : Instr) (bs : List Byte) : Option (Instr × List Byte) := some (i, bs)

/-- Format F1: one byte. -/
def readF1 (mk : Byte → Instr) : List Byte → Option (Instr × List Byte)
  | a :: rest => some (mk a, rest)
  | [] => none

/-- Format F2: col, row. -/
def readF2 (mk : Int → Int → Instr) : List Byte → Option (Instr × List Byte)
  | c :: r :: rest => some (mk (sext8 c) (sext8 r), rest)
  | _ => none

/-- Format F3: col, row, x. -/
def readF3 (mk : Int → Int → Nat → Instr) : List Byte → Option (Instr × List Byte)
  | c :: r :: x :: rest => some (mk (sext8 c) (sext8 r) (zext8 x), rest)
  | _ => none

/-- Format FN: n, little-endian, `sext_16`. -/
def readFN (mk : Int → Instr) : List Byte → Option (Instr × List Byte)
  | lo :: hi :: rest => some (mk (le16 lo hi).toInt, rest)
  | _ => none

/-- Format FB: col, row, number, little-endian, `zext_16`. -/
def readFB (mk : Int → Int → Nat → Instr) : List Byte → Option (Instr × List Byte)
  | c :: r :: lo :: hi :: rest => some (mk (sext8 c) (sext8 r) (le16 lo hi).toNat, rest)
  | _ => none

/-- Format FS, and the tail of FC: len, then exactly len text bytes (R83). -/
def readFS (mk : List Byte → Instr) : List Byte → Option (Instr × List Byte)
  | len :: bs =>
    if len.toNat ≤ bs.length then some (mk (bs.take len.toNat), bs.drop len.toNat) else none
  | [] => none

/-- Format FT: now, four bytes, little-endian. -/
def readFT (mk : Time → Instr) : List Byte → Option (Instr × List Byte)
  | b0 :: b1 :: b2 :: b3 :: rest => some (mk (le32 b0 b1 b2 b3), rest)
  | _ => none

/-- Format FC: scol, srow, ecol, erow, delay, len, text. -/
def readFC (mk : Int → Int → Int → Int → Time → List Byte → Instr) :
    List Byte → Option (Instr × List Byte)
  | sc :: sr :: ec :: er :: d0 :: d1 :: d2 :: d3 :: rest =>
    readFS (mk (sext8 sc) (sext8 sr) (sext8 ec) (sext8 er) (le32 d0 d1 d2 d3)) rest
  | _ => none

/-- The operand bytes after the opcode (R81): the command and what follows its packet, or none where the bytes run out
(or the opcode is unassigned). -/
def decodeOperands (op : Byte) (bs : List Byte) : Option (Instr × List Byte) :=
  match op.toNat with
  | 0x01 => readF2 .setCursor bs
  | 0x02 => readFN .advance bs
  | 0x03 => readFS .writeText bs
  | 0x04 => readF1 (fun a => .writeChar (zext8 a)) bs
  | 0x05 => readF3 .writeCharAt bs
  | 0x06 => readF2 .writeBlockAt bs
  | 0x07 => readF0 .clear bs
  | 0x08 => readF0 .ciBegin bs
  | 0x09 => readF0 .ciShow bs
  | 0x0A => readF0 .ciHide bs
  | 0x0B => readF0 .pgBegin bs
  | 0x0C => readF1 (fun a => .pgSelect (sext8 a)) bs
  | 0x0D => readFB .bigNumber bs
  | 0x0E => readF3 .bigDigit bs
  | 0x10 => readFC .scConfig bs
  | 0x11 => readFT .scUpdate bs
  | 0x12 => readFS .scSetText bs
  | 0x13 => readF0 .scEnable bs
  | 0x14 => readF0 .scDisable bs
  | _ => none

/-- The command at the head of a byte stream and the bytes after its packet (R80 to R85). -/
def decode : List Byte → Except DecodeError (Instr × List Byte)
  | [] => .error .noPacket
  | op :: bs =>
    match formatOf op with
    | none => .error (.unassignedOpcode op)
    | some _ =>
      match decodeOperands op bs with
      | some r => .ok r
      | none => .error (.shortPacket op)

/-- The byte that `sext_8` reads as `v`, for `v` in its range. -/
def byteOfInt (v : Int) : Byte := BitVec.ofInt 8 v
/-- The byte that `zext_8` reads as `v`, for `v` in its range. -/
def byteOfNat (v : Nat) : Byte := BitVec.ofNat 8 v
/-- A 16-bit field as its two bytes, low first (R54). -/
def bytes16 (w : BitVec 16) : List Byte := [w.extractLsb' 0 8, w.extractLsb' 8 8]
/-- A 32-bit field as its four bytes, least significant first (R54). -/
def bytes32 (w : BitVec 32) : List Byte :=
  [w.extractLsb' 0 8, w.extractLsb' 8 8, w.extractLsb' 16 8, w.extractLsb' 24 8]
/-- A text operand: its length, then its bytes (R83). -/
def textBytes (text : List Byte) : List Byte := byteOfNat text.length :: text

/-- The packet of a command (R80 to R83); meant for well-formed commands. -/
def encode : Instr → List Byte
  | .setCursor col row => [0x01, byteOfInt col, byteOfInt row]
  | .advance n => 0x02 :: bytes16 (BitVec.ofInt 16 n)
  | .writeText text => 0x03 :: textBytes text
  | .writeChar ch => [0x04, byteOfNat ch]
  | .writeCharAt col row ch => [0x05, byteOfInt col, byteOfInt row, byteOfNat ch]
  | .writeBlockAt col row => [0x06, byteOfInt col, byteOfInt row]
  | .clear => [0x07]
  | .ciBegin => [0x08]
  | .ciShow => [0x09]
  | .ciHide => [0x0A]
  | .pgBegin => [0x0B]
  | .pgSelect page => [0x0C, byteOfInt page]
  | .bigNumber col row number =>
      0x0D :: byteOfInt col :: byteOfInt row :: bytes16 (BitVec.ofNat 16 number)
  | .bigDigit col row digit => [0x0E, byteOfInt col, byteOfInt row, byteOfNat digit]
  | .scConfig scol srow ecol erow delay text =>
      0x10 :: byteOfInt scol :: byteOfInt srow :: byteOfInt ecol :: byteOfInt erow ::
        (bytes32 delay ++ textBytes text)
  | .scUpdate now => 0x11 :: bytes32 now
  | .scSetText text => 0x12 :: textBytes text
  | .scEnable => [0x13]
  | .scDisable => [0x14]

/-- The first bytes of an opcode-table word: bit 0 is the least significant bit of the first byte, each later byte counts
on from it; above `nbits` all bits are 0. Ten zero bytes behind them reach every len byte (R80). -/
def tableHead (nbits w : Nat) : List Byte :=
  (List.range ((nbits + 7) / 8)).map (fun k => BitVec.ofNat 8 ((w % 2 ^ nbits) / 2 ^ (8 * k))) ++
    List.replicate 10 0

/-- The packet of an opcode-table word, its bytes above `nbits` zero, exactly as long as R80 gives it. -/
def tablePacket (nbits w : Nat) : List Byte :=
  let head := tableHead nbits w
  (head ++ List.replicate (packetLength head - head.length) 0).take (packetLength head)

/-- What the decoder reads from an opcode-table word. -/
def decodeTableWord (nbits w : Nat) : Option Instr :=
  match decode (tablePacket nbits w) with
  | .ok (i, _) => some i
  | .error _ => none

end Sys2Proof
end

