-- ==== Sys2Proof/Machine/State.lean ====
section
/-! DEFINITION. The engine's state as plain data (spec/10_state.md), the event alphabet of the trace (R40), the reasons a
step can stop, and the state right after reset (R221). -/

namespace Sys2Proof.Machine

/-- A level the engine drives: L or H (R10). -/
inductive Drive where
  | low
  | high
  deriving DecidableEq, Repr

/-- A line level: L, H, or U, "not yet driven by the engine since reset" (R10). -/
inductive Level where
  | undriven
  | low
  | high
  deriving DecidableEq, Repr

/-- The level of a line that has been driven. -/
def Drive.toLevel : Drive → Level
  | .low => .low
  | .high => .high

/-- The legal values of SHIFT and BUS, "0..255 or U" (R25; log entry 1). -/
inductive BusValue where
  | undriven
  | byte (b : Byte)
  deriving DecidableEq, Repr

/-- The six lines a DRIVE event names at the bus level (R40). -/
inductive Line where
  | addrStb
  | charStb
  | clr
  | curInd
  | pageA
  | pageB
  deriving DecidableEq, Repr

/-- The two named durations of WAIT events (R7, R40). -/
inductive Hold where
  | settle
  | clear
  deriving DecidableEq, Repr

/-- The events of the trace (R40). -/
inductive Event where
  /-- BUS(b): b was serialised and latched. -/
  | bus (b : Byte)
  /-- DRIVE(X, v). -/
  | drive (x : Line) (v : Drive)
  /-- WAIT(T). -/
  | wait (t : Hold)
  deriving DecidableEq, Repr

/-- Every piece of state the spec gives the engine (the table of spec/10_state.md), and the bytes the host has put on
the command port (R209; log entry 4). -/
structure State where
  /-- CURSOR, row in bits 7..4 and column in bits 3..0 (R20). -/
  cursor : Byte
  /-- CI_EN (R22). -/
  ciEn : Bool
  /-- PG_EN (R23). -/
  pgEn : Bool
  /-- SR_DATA (R24). -/
  srData : Drive
  /-- SR_CLK (R24). -/
  srClk : Drive
  /-- SR_LATCH (R24). -/
  srLatch : Drive
  /-- SHIFT, the serial stage (R25). -/
  shift : BusValue
  /-- BUS, the latched parallel outputs (R25). -/
  bus : BusValue
  /-- ADDR_STB (R26). -/
  addrStb : Drive
  /-- CHAR_STB (R26). -/
  charStb : Drive
  /-- CLR (R26). -/
  clr : Drive
  /-- CUR_IND (R27). -/
  curInd : Level
  /-- PAGE_A (R27). -/
  pageA : Level
  /-- PAGE_B (R27). -/
  pageB : Level
  /-- BUSY, the input no rule reads (R29; log entry 3). -/
  busy : Level
  /-- SC_BOUND (R30). -/
  scBound : Bool
  /-- SC_EN (R31). -/
  scEn : Bool
  /-- AREA_START, S in formulas (R32). -/
  areaStart : Byte
  /-- AREA_LEN, W in formulas (R32). -/
  areaLen : Byte
  /-- TEXT, the bytes 0..L-1 (R33; log entry 13). -/
  text : List Byte
  /-- TEXT_LEN, L in formulas (R33). -/
  textLen : Byte
  /-- PHASE, p in formulas, nine bits (R34). -/
  phase : BitVec 9
  /-- LAST_TICK (R35). -/
  lastTick : Time
  /-- DELAY (R35). -/
  delay : Time
  /-- TRACE, the events emitted since reset, oldest first (R40). -/
  trace : List Event
  /-- The bytes the host has presented and the engine has not yet taken, oldest first (R80, R209, R230; log entry 4). -/
  port : List Byte
  deriving DecidableEq, Repr

/-- Why the machine stops with a fault. There is no reason: "The engine raises no synchronous exception" (R200); no
case of the spec is treated as a fault (93_implementation_defined.md). Nobody raises one; log entry 15. -/
inductive Fault where
  deriving DecidableEq, Repr

/-- Why the model gives a situation no result (R202, 93_implementation_defined.md U1 to U4). -/
inductive Refusal where
  /-- No meaning yet; raised by an arm of exec that names its mnemonic (safe). No arm does. -/
  | notModelled (mnemonic : String)
  /-- Raised by ADVANCE when the wrapped sum lies outside 0..159 (R123, U1): the spec gives it no meaning (safe). -/
  | advanceOutsideDomain
  /-- Raised by BIG_DIGIT when digit is above 9 (R158, U2): the glyph table has no such entry (safe). -/
  | digitOutsideTable
  /-- Raised by SC_SET_TEXT while SC_BOUND = 0 (R183, U3): there is no window (safe). -/
  | setTextBeforeConfig
  /-- Raised by the step on a packet with an unassigned opcode (R84, U4) (safe). -/
  | unassignedOpcode (op : Byte)
  /-- Raised by the step on a packet cut short of its format's length (R84, U4) (safe). -/
  | shortPacket (op : Byte)
  deriving DecidableEq, Repr

/-- The machine right after reset (R221). CURSOR, the flags, the line levels and TRACE are the spec's; BUSY, the command
port and every scroll register the spec leaves `U` (AREA_START to DELAY) hold a value the log names
(entries 2, 3, 4). -/
def State.reset : State where
  cursor := 0
  ciEn := false
  pgEn := false
  srData := .low
  srClk := .low
  srLatch := .low
  shift := .undriven
  bus := .undriven
  addrStb := .high
  charStb := .high
  clr := .high
  curInd := .undriven
  pageA := .undriven
  pageB := .undriven
  busy := .undriven
  scBound := false
  scEn := false
  areaStart := 0
  areaLen := 0
  text := []
  textLen := 0
  phase := 0
  lastTick := 0
  delay := 0
  trace := []
  port := []

end Sys2Proof.Machine
end

