-- ==== Sys2Proof/Machine/Operands.lean ====
section
/-! DEFINITION. What the commands compute from their operands: the encoders and clamps of spec/30_encoding.md Part A
(R70 to R77), the digit arithmetic of R155 and R156, the window geometry of R171 and R172, the wrap rules of R122 and
R125, the elapsed time of R177. All of it is exact arithmetic narrowed at the end (R132). -/

namespace Sys2Proof.Machine

/-- `clamp(v, lo, hi)` over the integers (R8). -/
def clamp (v lo hi : Int) : Int := if v < lo then lo else if hi < v then hi else v

/-- `ClampCol`, R72. -/
def clampCol (c : Int) : Nat := (clamp c 0 (Config.cols - 1)).toNat

/-- `ClampRow`, R72. -/
def clampRow (r : Int) : Nat := (clamp r 0 (Config.rows - 1)).toNat

/-- `Pack(c, r) = (c & 0xF) | (r << 4)`, R70: the nibble pack, not a multiplication. -/
def pack (c r : Nat) : Byte := (BitVec.ofNat 8 c &&& 0x0F#8) ||| (BitVec.ofNat 8 r <<< 4)

/-- `Col(a) = a & 0xF`, R71. -/
def colOf (a : Byte) : Nat := (a &&& 0x0F#8).toNat

/-- `Row(a) = a >> 4`, R71. -/
def rowOf (a : Byte) : Nat := (a >>> 4).toNat

/-- The linear address of a clamped position: clamp, then pack (R72, R120, R171). -/
def cellAt (col row : Int) : Byte := pack (clampCol col) (clampRow row)

/-- `Enc(code) = (~code) & 0x7F`, R73. -/
def enc (code : Nat) : Byte := ~~~(BitVec.ofNat 8 code) &&& 0x7F#8

/-- `ClampCh`, R74. -/
def clampCh (ch : Int) : Nat := (clamp ch Config.chMin Config.chMax).toNat

/-- `Upper`, R76. -/
def upper (ch : Nat) : Nat := if 97 ≤ ch ∧ ch ≤ 122 then ch - 32 else ch

/-- `Disp(x) = ClampCh(Upper(x))`, R173: the code a text character is shown as. -/
def disp (ch : Nat) : Nat := clampCh (upper ch)

/-- `PageBits(page) = (~clamp(page, 0, 3)) & 0b11`, R77. -/
def pageBits (page : Int) : BitVec 2 := ~~~(BitVec.ofInt 2 (clamp page 0 (Config.nPages - 1)))

/-- A 1 bit as level H and a 0 bit as level L (R77). -/
def levelOfBit (b : Bool) : Drive := if b then .high else .low

/-- The sum of ADVANCE with its one conditional subtraction (R122); it may lie outside 0..159 (R123). -/
def advanceSum (cursor : Byte) (n : Int) : Int :=
  let s := (cursor.toNat : Int) + n
  if (Config.nCells : Int) ≤ s then s - Config.nCells else s

/-- The address after one text character: plus 1, reset to 0 at 160 (R125); kept apart from `advanceSum` (R126). -/
def nextCell (cursor : Byte) : Byte :=
  let a := cursor.toNat + 1
  if a = Config.nCells then 0 else BitVec.ofNat 8 a

/-- The counting loop of R156 on `fuel` rounds at most. -/
def digitCountLoop : Nat → Nat → Nat
  | 0, _ => 0
  | fuel + 1, t => if 0 < t then digitCountLoop fuel (t / 10) + 1 else 0

/-- `DigitCount`, R156; a number is never longer than its own value. -/
def digitCount (number : Nat) : Nat := digitCountLoop number number

/-- Digit i of BIG_NUMBER, i = 0 the most significant of `cnt` (R155). -/
def digitAt (number cnt i : Nat) : Fin 10 :=
  ⟨number / 10 ^ (cnt - 1 - i) % 10, Nat.mod_lt _ (by decide)⟩

/-- Is the cell inside the grid (R157, R159)? -/
def inGrid (x y : Int) : Bool :=
  decide (0 ≤ x ∧ x < (Config.cols : Int) ∧ 0 ≤ y ∧ y < (Config.rows : Int))

/-- The 15 cells of a big digit, glyph rows outside and glyph columns inside (R157, D18). -/
def glyphCells : List (Fin 5 × Fin 3) :=
  [(0, 0), (0, 1), (0, 2), (1, 0), (1, 1), (1, 2), (2, 0), (2, 1), (2, 2),
   (3, 0), (3, 1), (3, 2), (4, 0), (4, 1), (4, 2)]

/-- `WinLen(S, ecol, erow)`, R172. -/
def winLen (p : Params) (start : Byte) (ecol erow : Int) : Nat :=
  let e := cellAt ecol erow
  if start.toNat < e.toNat then e.toNat - start.toNat + (if p.windowEndInclusive then 1 else 0) else 1

/-- `Elapsed(now, last) = (now - last) mod 2^32`, R177. -/
def elapsed (now last : Time) : Time := now - last

/-- Where `Render` starts, and which text characters it writes (R180): position, first index, count. -/
structure RenderPlan where
  pos : Nat
  first : Nat
  count : Nat
  deriving DecidableEq, Repr

/-- The branch of `Render` (R180) for phase p, text length L, window length W and start S. -/
def renderPlan (p l w s : Nat) : RenderPlan :=
  if l ≤ p then
    { pos := s + p - l, first := 0, count := min (w + l - p) l }
  else
    { pos := s, first := l - p, count := min p w }

end Sys2Proof.Machine
end

