-- ==== Sys2Proof/Machine/Flags.lean ====
section
/-! DEFINITION. The four mode bits as gates. The engine has no condition codes and no command sets a flag as a side
effect of computing (R37); what a status register would hold elsewhere is CI_EN, PG_EN, SC_BOUND and SC_EN, each read
only as a gate. -/

namespace Sys2Proof.Machine

/-- The gate of CI_SHOW and CI_HIDE (R22, R141, R142). -/
def indicatorGate (s : State) : Bool := s.ciEn

/-- The gate of PG_SELECT (R23, R145). -/
def pagingGate (s : State) : Bool := s.pgEn

/-- The gate of SC_SET_TEXT: a window exists (R182, R183). -/
def windowGate (s : State) : Bool := s.scBound

/-- The gate of SC_UPDATE: bound, enabled, and at least DELAY since the last tick, compared unsigned (R176, R177). -/
def tickGate (now : Time) (s : State) : Bool :=
  s.scBound && s.scEn && decide (s.delay.toNat ≤ (elapsed now s.lastTick).toNat)

end Sys2Proof.Machine
end

