-- ==== Sys2Proof/Machine/Ops.lean ====
section
/-! DEFINITION. The procedures the commands share: emitting an event, BusWrite, AddrWrite, CharWrite
(spec/40_bus_and_strobe.md), AddrSet, TextPut and the surface operations (spec/41_surface.md), the big-digit cell
(spec/43_bignumber.md), ClearWindow, Render, Tick (spec/44_scroll.md). The engine takes no exception and returns from
none (R200, R204), so there is no exception entry here. -/

namespace Sys2Proof.Machine

/-- The configuration the machine runs with: the decided defaults of R7 and the open values of Config. -/
def params : Params where
  textAddrAfterEach := true
  windowEndInclusive := false
  glyph := Config.glyph
  tSettle := Config.tSettleLessOne + 1
  tClear := Config.tClearLessOne + 1

/-- `CURSOR <- a`. -/
def State.withCursor (s : State) (a : Byte) : State := { s with cursor := a }
/-- `CI_EN <- v`. -/
def State.withCiEn (s : State) (v : Bool) : State := { s with ciEn := v }
/-- `PG_EN <- v`. -/
def State.withPgEn (s : State) (v : Bool) : State := { s with pgEn := v }
/-- `SC_EN <- v`. -/
def State.withScEn (s : State) (v : Bool) : State := { s with scEn := v }
/-- `LAST_TICK <- now`. -/
def State.withLastTick (s : State) (now : Time) : State := { s with lastTick := now }
/-- `PHASE <- p`. -/
def State.withPhase (s : State) (p : BitVec 9) : State := { s with phase := p }
/-- `AREA_START <- start; AREA_LEN <- len`. -/
def State.withWindow (s : State) (start len : Byte) : State := { s with areaStart := start, areaLen := len }
/-- `TEXT[0..len) <- text; TEXT_LEN <- len`. -/
def State.withText (s : State) (text : List Byte) : State :=
  { s with text := text, textLen := BitVec.ofNat 8 text.length }
/-- `DELAY <- delay; SC_BOUND <- 1`. -/
def State.bound (s : State) (delay : Time) : State := { s with delay := delay, scBound := true }

/-- What an event does to the lines and the bus. BUS(b) leaves SHIFT = BUS = b (R101), and the three serial lines where
the pin sequence of R102 ends: SR_LATCH high, SR_CLK low, SR_DATA at bit 0 of b. DRIVE(X, v) sets line X (R40). -/
def State.apply (s : State) : Event → State
  | .bus b =>
    { s with shift := .byte b, bus := .byte b, srLatch := .high, srClk := .low, srData := levelOfBit (b.getLsbD 0) }
  | .drive .addrStb v => { s with addrStb := v }
  | .drive .charStb v => { s with charStb := v }
  | .drive .clr v => { s with clr := v }
  | .drive .curInd v => { s with curInd := v.toLevel }
  | .drive .pageA v => { s with pageA := v.toLevel }
  | .drive .pageB v => { s with pageB := v.toLevel }
  | .wait _ => s

/-- `emit e` (R9): the event takes effect and is appended to TRACE. -/
def State.emit (s : State) (e : Event) : State :=
  { s.apply e with trace := s.trace ++ [e] }

/-- Events emitted one after another (R58). -/
def State.emitAll (s : State) (es : List Event) : State := es.foldl State.emit s

/-- The events of `AddrWrite(a)`: bus, then an active-low pulse on ADDR_STB with a hold at each level (R104). -/
def addrWriteEvents (a : Byte) : List Event :=
  [.bus a, .drive .addrStb .low, .wait .settle, .drive .addrStb .high, .wait .settle]

/-- The events of `CharWrite(b)`: bus, then an active-low pulse on CHAR_STB with a hold at each level (R105). -/
def charWriteEvents (b : Byte) : List Event :=
  [.bus b, .drive .charStb .low, .wait .settle, .drive .charStb .high, .wait .settle]

/-- The events of CLEAR (R130). -/
def clearEvents : List Event := [.drive .clr .low, .wait .clear, .drive .clr .high]

/-- `AddrWrite(a)`, R104. -/
def addrWrite (a : Byte) (s : State) : State := s.emitAll (addrWriteEvents a)

/-- `CharWrite(b)`, R105. -/
def charWrite (b : Byte) (s : State) : State := s.emitAll (charWriteEvents b)

/-- `AddrSet(a)`, R121. -/
def addrSet (a : Byte) (s : State) : State := addrWrite a (s.withCursor a)

/-- `TextPut(ch)`, R125. -/
def textPut (p : Params) (s : State) (ch : Byte) : State :=
  let s := charWrite (enc (disp ch.toNat)) s
  let a := nextCell s.cursor
  let s := s.withCursor a
  if p.textAddrAfterEach then addrWrite a s else s

/-- A text run: one `TextPut` per byte (R124, R175). -/
def textRun (p : Params) (text : List Byte) (s : State) : State := text.foldl (textPut p) s

/-- The procedure of SET_CURSOR (R120). -/
def setCursor (col row : Int) (s : State) : State := addrSet (cellAt col row) s

/-- The procedure of WRITE_CHAR (R127). -/
def writeChar (ch : Nat) (s : State) : State := charWrite (enc (clampCh ch)) s

/-- The procedure of WRITE_CHAR_AT (R128). -/
def writeCharAt (col row : Int) (ch : Nat) (s : State) : State := writeChar ch (setCursor col row s)

/-- The procedure of WRITE_BLOCK_AT (R129): code 127, past the clamp (R75). -/
def writeBlockAt (col row : Int) (s : State) : State := charWrite (enc Config.chBlock) (setCursor col row s)

/-- One cell of a big digit (R157): block or space inside the grid, nothing outside it (R159). -/
def drawGlyphCell (p : Params) (d : Fin 10) (col row : Int) (s : State) (cell : Fin 5 × Fin 3) : State :=
  let x := col + cell.2.val
  let y := row + cell.1.val
  if inGrid x y then
    if p.glyph d cell.1 cell.2 then writeBlockAt x y s else writeCharAt x y 32 s
  else s

/-- The procedure of BIG_DIGIT for a digit of the table (R157). -/
def drawDigit (p : Params) (d : Fin 10) (col row : Int) (s : State) : State :=
  glyphCells.foldl (drawGlyphCell p d col row) s

/-- The loop of BIG_NUMBER (R155). -/
def drawNumber (p : Params) (col row : Int) (number : Nat) (s : State) : State :=
  let cnt := digitCount number
  (List.range cnt).foldl
    (fun s i => drawDigit p (digitAt number cnt i) (col + ((Config.digitWidth + Config.spaceWidth : Nat) : Int) * i) row s) s

/-- `ClearWindow`, R179. -/
def clearWindow (p : Params) (s : State) : State :=
  textRun p (List.replicate s.areaLen.toNat 32) (addrSet s.areaStart s)

/-- `Render`, R180. -/
def render (p : Params) (s : State) : State :=
  let plan := renderPlan s.phase.toNat s.textLen.toNat s.areaLen.toNat s.areaStart.toNat
  if 0 < plan.count then
    textRun p ((List.range plan.count).map fun j => s.text.getD (plan.first + j) 0)
      (addrSet (BitVec.ofNat 8 plan.pos) s)
  else s

/-- The top of the phase counter, `W + L` (R34). -/
def phaseTop (areaLen textLen : Byte) : BitVec 9 := BitVec.ofNat 9 (areaLen.toNat + textLen.toNat)

/-- The decrement of PHASE with its restart (R178), in the form that never holds −1. -/
def stepPhase (s : State) : State :=
  s.withPhase (if s.phase = 0 then phaseTop s.areaLen s.textLen else s.phase - 1)

/-- `Tick`, R178. -/
def tick (p : Params) (s : State) : State := stepPhase (render p (clearWindow p s))

/-- `TEXT[0..len) <- text; TEXT_LEN <- len; PHASE <- AREA_LEN + len` (R170, R182). -/
def loadText (text : List Byte) (s : State) : State :=
  (s.withText text).withPhase (phaseTop s.areaLen (BitVec.ofNat 8 text.length))

end Sys2Proof.Machine
end

