-- ==== Sys2Proof/Machine/BigNumber.lean ====
section
/-! DEFINITION. The meanings of the big-number commands (spec/43_bignumber.md). -/

namespace Sys2Proof.Machine

/-- BIG_NUMBER, R155; the number 0 draws nothing (R160). -/
def execBigNumber (col row : Int) (number : Nat) (s : State) : Host.Outcome State Fault Refusal :=
  .next (drawNumber params col row number s)

/-- BIG_DIGIT, R157; a digit above 9 has no meaning (R158). -/
def execBigDigit (col row : Int) (digit : Nat) (s : State) : Host.Outcome State Fault Refusal :=
  if h : digit < 10 then .next (drawDigit params ⟨digit, h⟩ col row s) else .refused .digitOutsideTable

end Sys2Proof.Machine
end

