-- ==== Sys2Proof/Machine/OptionalLines.lean ====
section
/-! DEFINITION. The meanings of the optional-line commands (spec/42_optional_lines.md). -/

namespace Sys2Proof.Machine

/-- CI_BEGIN, R140: the flag only; no event. -/
def execCiBegin (s : State) : Host.Outcome State Fault Refusal :=
  .next (s.withCiEn true)

/-- CI_SHOW, R141: active high. -/
def execCiShow (s : State) : Host.Outcome State Fault Refusal :=
  .next (if indicatorGate s then s.emit (.drive .curInd .high) else s)

/-- CI_HIDE, R142. -/
def execCiHide (s : State) : Host.Outcome State Fault Refusal :=
  .next (if indicatorGate s then s.emit (.drive .curInd .low) else s)

/-- PG_BEGIN, R144: the flag only; no event. -/
def execPgBegin (s : State) : Host.Outcome State Fault Refusal :=
  .next (s.withPgEn true)

/-- PG_SELECT, R145: line A before line B (D15). -/
def execPgSelect (page : Int) (s : State) : Host.Outcome State Fault Refusal :=
  let v := pageBits page
  .next (if pagingGate s then
    s.emitAll [.drive .pageA (levelOfBit (v.getLsbD 0)), .drive .pageB (levelOfBit (v.getLsbD 1))]
  else s)

end Sys2Proof.Machine
end

