-- ==== Sys2Proof/Machine/Scroll.lean ====
section
/-! DEFINITION. The meanings of the scroll window commands (spec/44_scroll.md). -/

namespace Sys2Proof.Machine

/-- The registers SC_CONFIG writes (R170), for any configuration record. -/
def configure (p : Params) (scol srow ecol erow : Int) (delay : Time) (text : List Byte) (s : State) : State :=
  let start := cellAt scol srow
  let s := s.withWindow start (BitVec.ofNat 8 (winLen p start ecol erow))
  let s := loadText text s
  ((s.bound delay).withLastTick 0).withScEn true

/-- SC_CONFIG, R170. -/
def execScConfig (scol srow ecol erow : Int) (delay : Time) (text : List Byte) (s : State) :
    Host.Outcome State Fault Refusal :=
  .next (configure params scol srow ecol erow delay text s)

/-- SC_UPDATE, R176. -/
def execScUpdate (now : Time) (s : State) : Host.Outcome State Fault Refusal :=
  .next (if tickGate now s then tick params (s.withLastTick now) else s)

/-- SC_SET_TEXT, R182; without a window the spec gives no meaning, R183. -/
def execScSetText (text : List Byte) (s : State) : Host.Outcome State Fault Refusal :=
  if windowGate s then
    .next ((clearWindow params (loadText text (s.withScEn false))).withScEn true)
  else .refused .setTextBeforeConfig

/-- SC_ENABLE, R184. -/
def execScEnable (s : State) : Host.Outcome State Fault Refusal :=
  .next (s.withScEn true)

/-- SC_DISABLE, R185. -/
def execScDisable (s : State) : Host.Outcome State Fault Refusal :=
  .next (s.withScEn false)

end Sys2Proof.Machine
end

