-- ==== Sys2Proof/Machine/Surface.lean ====
section
/-! DEFINITION. The meanings of the surface commands (spec/41_surface.md). -/

namespace Sys2Proof.Machine

/-- SET_CURSOR, R120. -/
def execSetCursor (col row : Int) (s : State) : Host.Outcome State Fault Refusal :=
  .next (setCursor col row s)

/-- ADVANCE, R122; outside its domain the spec gives no meaning, R123. -/
def execAdvance (n : Int) (s : State) : Host.Outcome State Fault Refusal :=
  let a := advanceSum s.cursor n
  if 0 ≤ a ∧ a < Config.nCells then .next (addrSet (BitVec.ofInt 8 a) s) else .refused .advanceOutsideDomain

/-- WRITE_TEXT, R124. -/
def execWriteText (text : List Byte) (s : State) : Host.Outcome State Fault Refusal :=
  .next (textRun params text s)

/-- WRITE_CHAR, R127. -/
def execWriteChar (ch : Nat) (s : State) : Host.Outcome State Fault Refusal :=
  .next (writeChar ch s)

/-- WRITE_CHAR_AT, R128. -/
def execWriteCharAt (col row : Int) (ch : Nat) (s : State) : Host.Outcome State Fault Refusal :=
  .next (writeCharAt col row ch s)

/-- WRITE_BLOCK_AT, R129. -/
def execWriteBlockAt (col row : Int) (s : State) : Host.Outcome State Fault Refusal :=
  .next (writeBlockAt col row s)

/-- CLEAR, R130. -/
def execClear (s : State) : Host.Outcome State Fault Refusal :=
  .next (s.emitAll clearEvents)

end Sys2Proof.Machine
end

