-- ==== Sys2Proof/Machine/Dispatch.lean ====
section
/-! DEFINITION. One arm per command; the meanings are in Surface, OptionalLines, BigNumber, Scroll. -/

namespace Sys2Proof.Machine

def exec (i : Instr) (s : State) : Host.Outcome State Fault Refusal :=
  match i with
  | .setCursor col row => Sys2Proof.Machine.execSetCursor col row s
  | .advance n => Sys2Proof.Machine.execAdvance n s
  | .writeText text => Sys2Proof.Machine.execWriteText text s
  | .writeChar ch => Sys2Proof.Machine.execWriteChar ch s
  | .writeCharAt col row ch => Sys2Proof.Machine.execWriteCharAt col row ch s
  | .writeBlockAt col row => Sys2Proof.Machine.execWriteBlockAt col row s
  | .clear => Sys2Proof.Machine.execClear s
  | .ciBegin => Sys2Proof.Machine.execCiBegin s
  | .ciShow => Sys2Proof.Machine.execCiShow s
  | .ciHide => Sys2Proof.Machine.execCiHide s
  | .pgBegin => Sys2Proof.Machine.execPgBegin s
  | .pgSelect page => Sys2Proof.Machine.execPgSelect page s
  | .bigNumber col row number => Sys2Proof.Machine.execBigNumber col row number s
  | .bigDigit col row digit => Sys2Proof.Machine.execBigDigit col row digit s
  | .scConfig scol srow ecol erow delay text => Sys2Proof.Machine.execScConfig scol srow ecol erow delay text s
  | .scUpdate now => Sys2Proof.Machine.execScUpdate now s
  | .scSetText text => Sys2Proof.Machine.execScSetText text s
  | .scEnable => Sys2Proof.Machine.execScEnable s
  | .scDisable => Sys2Proof.Machine.execScDisable s

end Sys2Proof.Machine
end

