-- ==== Sys2Proof/Machine/Port.lean ====
section
/-! DEFINITION. The command port (R209, R230): the host's bytes, and taking the next command from them. -/

namespace Sys2Proof.Machine

/-- `cmd_valid`: the host holds a byte on the port (R209). -/
def cmdValid (s : State) : Bool := !s.port.isEmpty

/-- `cmd_byte`: that byte, where there is one (R209). -/
def cmdByte (s : State) : Option Byte := s.port.head?

/-- `cmd_ready`: the engine is between commands, as it is in every state (D2, R28, R230). -/
def cmdReady (_ : State) : Bool := true

/-- What the engine finds on its port. -/
inductive Accepted where
  /-- No command is waiting: the engine is idle (R212). -/
  | idle
  /-- The packet has no meaning (R84). -/
  | refuse (r : Refusal)
  /-- A command, and the state with its packet taken from the port. -/
  | run (i : Instr) (s : State)
  deriving DecidableEq, Repr

/-- Take the next command from the port (R80 to R85, R230). -/
def accept (s : State) : Accepted :=
  match decode s.port with
  | .ok (i, rest) => .run i { s with port := rest }
  | .error .noPacket => .idle
  | .error (.unassignedOpcode op) => .refuse (.unassignedOpcode op)
  | .error (.shortPacket op) => .refuse (.shortPacket op)

/-- The host presents bytes behind those already waiting (R230). -/
def present (bytes : List Byte) (s : State) : State := { s with port := s.port ++ bytes }

/-- The host presents bytes that the engine takes first. -/
def presentFirst (bytes : List Byte) (s : State) : State := { s with port := bytes ++ s.port }

end Sys2Proof.Machine
end

