-- ==== Sys2Proof/Machine/Step.lean ====
section
/-! DEFINITION. One step: the engine takes one command from its port and runs it to its last event (R28, R230). -/

namespace Sys2Proof.Machine

/-- One command, taken and run; with no command waiting the engine stays as it is (R212). -/
def step (s : State) : Host.Outcome State Fault Refusal :=
  match accept s with
  | .idle => .next s
  | .refuse r => .refused r
  | .run i s' => exec i s'

/-- `s` with the packet of an opcode-table word as the first bytes on the command port (log entry 4). -/
def State.withFetchWord (s : State) (nbits w : Nat) : State := presentFirst (tablePacket nbits w) s

end Sys2Proof.Machine
end

