-- ==== Sys2Proof/Machine/Sequences.lean ====
section
/-! DEFINITION. What the text and drawing commands send, in closed form (the summary R131 and its counterparts for the
scroll unit and the big digits), and the host's commands as a list folded over the engine (R230). -/

namespace Sys2Proof.Machine

/-- The events of a text run from address `start` (R124, R125): for each character its character write, then, where
`resend`, the address write of the following cell. -/
def textEvents (resend : Bool) (start : Nat) (text : List Byte) : List Event :=
  (List.range text.length).flatMap fun i =>
    charWriteEvents (BitVec.ofNat 8 (127 - disp (text.getD i 0).toNat)) ++
      if resend then addrWriteEvents (BitVec.ofNat 8 ((start + i + 1) % 160)) else []

/-- The events of a positioned text run. -/
def positionedTextEvents (resend : Bool) (start : Nat) (text : List Byte) : List Event :=
  addrWriteEvents (BitVec.ofNat 8 start) ++ textEvents resend start text

/-- The events of `ClearWindow` for a window of `w` cells from address `s` (R179). -/
def windowClearEvents (resend : Bool) (s w : Nat) : List Event :=
  positionedTextEvents resend s (List.replicate w 32)

/-- The part of the text `Render` draws at phase `p` in a window of `w` cells (R174, R180). -/
def renderSlice (p w : Nat) (text : List Byte) : List Byte :=
  if text.length ≤ p then text.take (w + text.length - p) else (text.drop (text.length - p)).take w

/-- Where `Render` puts it in a window from address `s` (R174, R180). -/
def renderStart (p s : Nat) (text : List Byte) : Nat := if text.length ≤ p then s + p - text.length else s

/-- The events of `Render` (R180): nothing where there is nothing to draw. -/
def renderEvents (resend : Bool) (p w s : Nat) (text : List Byte) : List Event :=
  if renderSlice p w text = [] then []
  else positionedTextEvents resend (renderStart p s text) (renderSlice p w text)

/-- CURSOR after `Tick` (R179, R180). -/
def tickCursor (p w s : Nat) (text : List Byte) : Nat :=
  if renderSlice p w text = [] then (s + w) % 160
  else (renderStart p s text + (renderSlice p w text).length) % 160

/-- The cells of a big digit that lie in the grid, in drawing order, each with its bus byte (R157, R159). -/
def digitCells (p : Params) (d : Fin 10) (col row : Int) : List (Nat × Byte) :=
  glyphCells.filterMap fun cell =>
    let x := col + cell.2.val
    let y := row + cell.1.val
    if 0 ≤ x ∧ x ≤ 15 ∧ 0 ≤ y ∧ y ≤ 9 then
      some ((16 * y + x).toNat, if p.glyph d cell.1 cell.2 then 0x00 else 0x5F)
    else none

/-- The events that draw cells: for each an address write and a character write. -/
def cellEvents (cells : List (Nat × Byte)) : List Event :=
  cells.flatMap fun cell => addrWriteEvents (BitVec.ofNat 8 cell.1) ++ charWriteEvents cell.2

/-- The cells of a big number (R155): its decimal digits, most significant first, four columns apart. -/
def numberCells (p : Params) (col row : Int) (digits : List (Fin 10)) : List (Nat × Byte) :=
  digits.zipIdx.flatMap fun d => digitCells p d.1 (col + 4 * (d.2 : Int)) row

/-- The address of the last cell drawn, or the one given where none is (R157). -/
def lastCell (cursor : Byte) (cells : List (Nat × Byte)) : Byte :=
  match cells.getLast? with
  | some cell => BitVec.ofNat 8 cell.1
  | none => cursor

/-- The outcome a next command starts from (R230): a stop ends the run. -/
def andThen (o : Host.Outcome State Fault Refusal) (f : State → Host.Outcome State Fault Refusal) :
    Host.Outcome State Fault Refusal :=
  match o with
  | .next s => f s
  | .fault r => .fault r
  | .refused r => .refused r

/-- The host's commands, one after another (R230). -/
def runCommands : List Instr → State → Host.Outcome State Fault Refusal
  | [], s => .next s
  | i :: is, s => andThen (exec i s) (runCommands is)

end Sys2Proof.Machine
end

