-- ==== Sys2Proof/Machine/Ghost.lean ====
section
/-! DEFINITION. The ghost model of the peripheral (R41, R60 to R64): a reading of TRACE, not state of the engine. No
engine rule reads it. -/

namespace Sys2Proof.Machine

/-- What is known of one cell of one page (R60). -/
inductive CellView where
  | unknown
  | cleared
  | code (c : Nat)
  deriving DecidableEq, Repr

/-- The ghost variables of R60, and what else TRACE says of the engine's outputs: the byte on the bus, the levels of the
strobes and of CLR, which a pulse needs to be seen as one, and the level of CUR_IND (R40). -/
structure Ghost where
  /-- The byte of the last BUS event. -/
  bus : BusValue
  /-- The level of ADDR_STB. -/
  addrStb : Drive
  /-- The level of CHAR_STB. -/
  charStb : Drive
  /-- The level of CLR. -/
  clr : Drive
  /-- The level of CUR_IND, U before its first DRIVE event (R27). -/
  curInd : Level
  /-- G_ADDR. -/
  addr : BusValue
  /-- G_SEL, the level of PAGE_A. -/
  selA : Level
  /-- G_SEL, the level of PAGE_B. -/
  selB : Level
  /-- G_FRAME[(PAGE_A, PAGE_B)][a]. -/
  frame : Level → Level → Nat → CellView

/-- The ghost variables at reset (R60). -/
def Ghost.initial : Ghost where
  bus := .undriven
  addrStb := .high
  charStb := .high
  clr := .high
  curInd := .undriven
  addr := .undriven
  selA := .undriven
  selB := .undriven
  frame := fun _ _ _ => .unknown

/-- The frame of the selected page. -/
def Ghost.visible (g : Ghost) (a : Nat) : CellView := g.frame g.selA g.selB a

/-- The selected page replaced. -/
def Ghost.setVisible (g : Ghost) (page : Nat → CellView) : Ghost :=
  { g with frame := fun x y a => if x = g.selA ∧ y = g.selB then page a else g.frame x y a }

/-- The address strobe samples the bus (R61). -/
def Ghost.latchAddr (g : Ghost) : Ghost := { g with addr := g.bus }

/-- The character strobe (R62): the re-inverted code lands in the latched cell; with no cell known, nothing is known of
the page any more (log entry 12). -/
def Ghost.storeChar (g : Ghost) : Ghost :=
  match g.bus, g.addr with
  | .byte b, .byte a =>
    if a.toNat < Config.nCells then
      g.setVisible (fun x => if x = a.toNat then .code (~~~b &&& 0x7F#8).toNat else g.visible x)
    else g.setVisible (fun _ => .unknown)
  | _, _ => g.setVisible (fun _ => .unknown)

/-- The clear pulse (R63). -/
def Ghost.clearAll (g : Ghost) : Ghost :=
  { g with
    addr := .undriven
    frame := fun x y _ => if x = g.selA ∧ y = g.selB then .cleared else .unknown }

/-- One event (R61 to R64). A low pulse acts as it ends, on the rising edge; R61 says the edge does not matter (log
entry 11). -/
def Ghost.next (g : Ghost) : Event → Ghost
  | .bus b => { g with bus := .byte b }
  | .drive .addrStb v =>
    if g.addrStb = .low ∧ v = .high then { g.latchAddr with addrStb := v } else { g with addrStb := v }
  | .drive .charStb v =>
    if g.charStb = .low ∧ v = .high then { g.storeChar with charStb := v } else { g with charStb := v }
  | .drive .clr v =>
    if g.clr = .low ∧ v = .high then { g.clearAll with clr := v } else { g with clr := v }
  | .drive .curInd v => { g with curInd := v.toLevel }
  | .drive .pageA v => { g with selA := v.toLevel }
  | .drive .pageB v => { g with selB := v.toLevel }
  | .wait _ => g

/-- The ghost variables after more events. -/
def Ghost.run (g : Ghost) (t : List Event) : Ghost := t.foldl Ghost.next g

/-- The ghost variables after a trace from reset. -/
def replay (t : List Event) : Ghost := Ghost.initial.run t

/-- The ghost variables of a state: a function of its TRACE (R12). -/
def State.ghost (s : State) : Ghost := replay s.trace

/-- The page number a pair of levels selects (R23, R64): `((~B) & 1) ‖ ((~A) & 1)`; none while a line is undriven. -/
def pageOf (a b : Level) : Option Nat :=
  match a, b with
  | .undriven, _ => none
  | _, .undriven => none
  | .high, .high => some 0
  | .low, .high => some 1
  | .high, .low => some 2
  | .low, .low => some 3

/-- The pairs of levels the page lines take while a list of events is emitted, the present pair first (R236). -/
def selections : Level × Level → List Event → List (Level × Level)
  | sel, [] => [sel]
  | sel, .drive .pageA v :: es => sel :: selections (v.toLevel, sel.2) es
  | sel, .drive .pageB v :: es => sel :: selections (sel.1, v.toLevel) es
  | sel, _ :: es => selections sel es

end Sys2Proof.Machine
end

