-- ==== Sys2Proof/Machine/Observe.lean ====
section
/-! DEFINITION. What a claim may look at beside the registers: the observation of R12, the page view of R23, event
counts (R108), and the time a list of events blocks the engine for (R238, R240). -/

namespace Sys2Proof.Machine

/-- `PAGE`, valid only when both lines are driven (R23). -/
def State.page (s : State) : Option Nat := pageOf s.pageA s.pageB

/-- The register half of the observation of R12: the state without the host's side (the command port, BUSY) and
without TRACE. -/
def State.registers (s : State) : State := { s with port := [], busy := .undriven, trace := [] }

/-- The observation of R12: final register state and TRACE. -/
def State.observation (s : State) : State × List Event := (s.registers, s.trace)

/-- The number of BUS events. -/
def busCount (t : List Event) : Nat :=
  t.countP fun e => match e with
    | .bus _ => true
    | .drive _ _ => false
    | .wait _ => false

/-- The number of DRIVE events. -/
def driveCount (t : List Event) : Nat :=
  t.countP fun e => match e with
    | .bus _ => false
    | .drive _ _ => true
    | .wait _ => false

/-- The number of falling drives of a line: how many pulses began. -/
def pulseCount (x : Line) (t : List Event) : Nat := t.count (.drive x .low)

/-- How long an event blocks the engine (R107, R130, R240); only waits take time the spec speaks of (R238). -/
def Event.duration (p : Params) : Event → Nat
  | .bus _ => 0
  | .drive _ _ => 0
  | .wait .settle => p.tSettle
  | .wait .clear => p.tClear

/-- The blocking time of a list of events (R238). -/
def blockingTime (p : Params) (t : List Event) : Nat := (t.map (Event.duration p)).sum

end Sys2Proof.Machine
end

