-- ==== Sys2Proof/Machine/Pins.lean ====
section
/-! DEFINITION. The pin level of the serial interface (R24, R102, R103): the 26 pin events of one bus write, and what the
shift register does on each. The machine itself works at the BUS(b) level (R40; log entry 10). -/

namespace Sys2Proof.Machine

/-- The three lines of the serial interface (R24). -/
inductive SerialLine where
  | data
  | clk
  | latch
  deriving DecidableEq, Repr

/-- A trace event at pin level: a serial line, or an event of R40 other than BUS. -/
inductive PinEvent where
  | serial (x : SerialLine) (v : Drive)
  | drive (x : Line) (v : Drive)
  | wait (t : Hold)
  deriving DecidableEq, Repr

/-- One bit onto SR_DATA, then a clock pulse (R102). -/
def bitPins (v : Bool) : List PinEvent :=
  [.serial .data (levelOfBit v), .serial .clk .high, .serial .clk .low]

/-- The expansion of `BUS(b)`: latch low, bits 7 down to 0, latch high (R102). -/
def busPins (b : Byte) : List PinEvent :=
  .serial .latch .low ::
    ([7, 6, 5, 4, 3, 2, 1, 0].flatMap (fun i => bitPins (b.getLsbD i)) ++ [.serial .latch .high])

/-- An event at pin level (R40): BUS(b) becomes its 26 pin events, every other event stays. -/
def Event.pins : Event → List PinEvent
  | .bus b => busPins b
  | .drive x v => [.drive x v]
  | .wait t => [.wait t]

/-- A trace at pin level. -/
def pinTrace (t : List Event) : List PinEvent := t.flatMap Event.pins

/-- The serial lines, the serial stage and the outputs of the shift register, all with values: what an undriven SHIFT
or BUS really holds is some byte. -/
structure PinState where
  data : Drive
  clk : Drive
  latch : Drive
  shift : Byte
  bus : Byte
  deriving DecidableEq, Repr

/-- The shift register on one pin event (R103): shift on a rising SR_CLK, copy on a rising SR_LATCH. -/
def PinState.next (p : PinState) : PinEvent → PinState
  | .serial .data v => { p with data := v }
  | .serial .clk v =>
    { p with
      clk := v
      shift := if p.clk = .low ∧ v = .high then p.shift <<< 1 ||| (if p.data = .high then 1 else 0) else p.shift }
  | .serial .latch v =>
    { p with latch := v, bus := if p.latch = .low ∧ v = .high then p.shift else p.bus }
  | .drive _ _ => p
  | .wait _ => p

/-- The shift register over a list of pin events. -/
def PinState.run (p : PinState) (es : List PinEvent) : PinState := es.foldl PinState.next p

/-- A bus value, where it is undriven the byte `x` the board happens to hold. -/
def BusValue.resolve (x : Byte) : BusValue → Byte
  | .undriven => x
  | .byte b => b

/-- The engine's serial lines and shift register at pin level, for undriven contents `x` and `y`. -/
def State.pins (s : State) (x y : Byte) : PinState where
  data := s.srData
  clk := s.srClk
  latch := s.srLatch
  shift := s.shift.resolve x
  bus := s.bus.resolve y

end Sys2Proof.Machine
end

