-- ==== Sys2Proof/Safety.lean ====
section
/-! DEFINITION. What counts as a legal state and a disciplined trace, in the terms the claims use: the register
invariants of spec/10_state.md, the agreement of the lines with TRACE, the strobe discipline of R106, and the host duty
of R231. -/

namespace Sys2Proof.Machine

/-- `0 <= CURSOR < 160` (R21). -/
abbrev CursorInGrid (s : State) : Prop := s.cursor.toNat < Config.nCells

/-- ADDR_STB, CHAR_STB and CLR are high between commands (R26). -/
abbrev StrobesIdle (s : State) : Prop := s.addrStb = .high ∧ s.charStb = .high ∧ s.clr = .high

/-- A configured window (R32 to R34): its start is a cell, it is not empty and does not cross the end of the cell
space, the text fills its length, and the phase is at most `W + L`. -/
abbrev WindowLegal (s : State) : Prop :=
  s.areaStart.toNat < Config.nCells ∧ 1 ≤ s.areaLen.toNat ∧
  s.areaStart.toNat + s.areaLen.toNat ≤ Config.nCells ∧
  s.text.length = s.textLen.toNat ∧ s.phase.toNat ≤ s.areaLen.toNat + s.textLen.toNat

/-- The scroll registers are legal once SC_CONFIG has written them (R30, R32 to R34). -/
abbrev ScrollLegal (s : State) : Prop := s.scBound = true → WindowLegal s

/-- An optional line is undriven until its feature has begun, and the two page lines are driven together (R27). -/
abbrev OptionalLinesLegal (s : State) : Prop :=
  (s.ciEn = false → s.curInd = .undriven) ∧
  (s.pgEn = false → s.pageA = .undriven ∧ s.pageB = .undriven) ∧
  (s.pageA = .undriven ↔ s.pageB = .undriven)

/-- The serial lines as R102 leaves them, or as reset leaves them while nothing has been written (R24, R25). -/
abbrev SerialLegal (s : State) : Prop :=
  s.srClk = .low ∧ s.shift = s.bus ∧
  match s.bus with
  | .undriven => s.srLatch = .low ∧ s.srData = .low
  | .byte b => s.srLatch = .high ∧ s.srData = levelOfBit (b.getLsbD 0)

/-- Every register holds a legal value between commands. -/
structure Legal (s : State) : Prop where
  cursor : CursorInGrid s
  strobes : StrobesIdle s
  scroll : ScrollLegal s
  optional : OptionalLinesLegal s
  serial : SerialLegal s

/-- The bus and every line that DRIVE events name (R40) are what TRACE says they are. -/
structure TraceAgrees (s : State) : Prop where
  bus : s.ghost.bus = s.bus
  addrStb : s.ghost.addrStb = s.addrStb
  charStb : s.ghost.charStb = s.charStb
  clr : s.ghost.clr = s.clr
  curInd : s.ghost.curInd = s.curInd
  selA : s.ghost.selA = s.pageA
  selB : s.ghost.selB = s.pageB

/-- The strobe levels a trace leads to from given ones, or none where a BUS event or a drive of the other strobe falls
inside a strobe pulse (R106). -/
def strobeStep : Option (Drive × Drive) → Event → Option (Drive × Drive)
  | some (.high, .high), .bus _ => some (.high, .high)
  | some (_, .high), .drive .addrStb v => some (v, .high)
  | some (.high, _), .drive .charStb v => some (.high, v)
  | _, .bus _ => none
  | _, .drive .addrStb _ => none
  | _, .drive .charStb _ => none
  | levels, .drive .clr _ => levels
  | levels, .drive .curInd _ => levels
  | levels, .drive .pageA _ => levels
  | levels, .drive .pageB _ => levels
  | levels, .wait _ => levels

/-- The trace keeps the strobe discipline of R106 and ends with both strobes high. -/
abbrev Disciplined (t : List Event) : Prop :=
  t.foldl strobeStep (some (.high, .high)) = some (.high, .high)

/-- The host duty of R231 is met: an address write has happened since reset and since the last CLEAR. -/
abbrev Positioned (s : State) : Prop := s.ghost.addr ≠ .undriven

/-- The peripheral's latched address is CURSOR, or unknown (R121, R231). -/
abbrev LatchedIsCursor (s : State) : Prop := s.ghost.addr = .undriven ∨ s.ghost.addr = .byte s.cursor

/-- From one reading of the peripheral to the next: the cells that `shown` names show what it says, every other cell of
the selected page and every cell of every other page is as before, and the selection is the same. -/
structure Shows (shown : Nat → Option CellView) (g h : Ghost) : Prop where
  selA : h.selA = g.selA
  selB : h.selB = g.selB
  cells : ∀ a, h.visible a = (shown a).getD (g.visible a)
  hidden : ∀ x y a, (x, y) ≠ (g.selA, g.selB) → h.frame x y a = g.frame x y a

/-- One cell shows a code. -/
def cellShown (a code : Nat) : Nat → Option CellView := fun x => if x = a then some (.code code) else none

/-- A text run from address `start` leaves each cell with the last character written to it: a run longer than the cell
space overwrites its own beginning (R124). -/
def textShown (start : Nat) (text : List Byte) : Nat → Option CellView := fun x =>
  let k := (x + 160 - start) % 160
  if x < 160 ∧ k < text.length then
    some (.code (disp (text.getD (k + 160 * ((text.length - 1 - k) / 160)) 0).toNat))
  else none

/-- A window cell shows its text character or a space (R173). -/
def windowShown (s w p : Nat) (text : List Byte) : Nat → Option CellView := fun x =>
  if s ≤ x ∧ x < s + w then
    let j : Int := (x : Int) - s + text.length - p
    if 0 ≤ j ∧ j < text.length then some (.code (disp (text.getD j.toNat 0).toNat)) else some (.code 32)
  else none

/-- A big digit shows block or space in each of its cells that lie in the grid (R157, R159). -/
def digitShown (p : Params) (d : Fin 10) (col row : Int) : Nat → Option CellView := fun a =>
  let gc : Int := (a % 16 : Nat) - col
  let gr : Int := (a / 16 : Nat) - row
  if a < 160 ∧ 0 ≤ gc ∧ gc < 3 ∧ 0 ≤ gr ∧ gr < 5 then
    some (.code (if p.glyph d (Fin.ofNat 5 gr.toNat) (Fin.ofNat 3 gc.toNat) then 127 else 32))
  else none

/-- The pin level and the register level tell the same story: from reset, whatever the undriven SHIFT and BUS hold, the
pin events of TRACE leave the serial lines and the shift register as the state has them (R102, R103). -/
def PinsAgree (s : State) : Prop := ∀ x y : Byte, (State.reset.pins x y).run (pinTrace s.trace) = s.pins x y

/-- The scroll registers of two states are the same. -/
abbrev SameScroll (s t : State) : Prop :=
  t.areaStart = s.areaStart ∧ t.areaLen = s.areaLen ∧ t.text = s.text ∧ t.textLen = s.textLen ∧
  t.phase = s.phase ∧ t.lastTick = s.lastTick ∧ t.delay = s.delay

/-- Two states that differ at most in what the spec leaves unspecified: the level of an optional line that the first of
them has not driven (U5), SHIFT and BUS (U6), BUSY (U10) and, while no window is bound, the scroll registers (U7). -/
structure SameBesidesUnspecified (s t : State) : Prop where
  same : t = { s with
    shift := t.shift, bus := t.bus, busy := t.busy, areaStart := t.areaStart, areaLen := t.areaLen, text := t.text,
    textLen := t.textLen, phase := t.phase, lastTick := t.lastTick, delay := t.delay
    curInd := t.curInd, pageA := t.pageA, pageB := t.pageB }
  curInd : s.curInd ≠ .undriven → t.curInd = s.curInd
  pageA : s.pageA ≠ .undriven → t.pageA = s.pageA
  pageB : s.pageB ≠ .undriven → t.pageB = s.pageB
  scroll : s.scBound = true → SameScroll s t

/-- Two outcomes of the same kind: related next states, or the same refusal. -/
def SameOutcome (r : State → State → Prop) :
    Host.Outcome State Fault Refusal → Host.Outcome State Fault Refusal → Prop
  | .next s, .next t => r s t
  | .refused a, .refused b => a = b
  | _, _ => False

end Sys2Proof.Machine
end

