-- ==== Sys2Proof/Certificates/Slice0/Obligations.lean ====
section
/-! DEFINITION. The statements for the provers, in the order of spec/: the encodings, the step, the bus and the strobes,
the commands family by family, what each register's writers are, the display as the ghost model reads it, the invariants,
and what the machine must not depend on. -/

open Sys2Proof Sys2Proof.Machine

/-! ## Command packets -/

/-- R80 to R83: the packet of a well-formed command, with anything behind it, decodes to that command and leaves the rest. -/
def Obligations.DecodeOfEncode : Prop :=
  ∀ (i : Instr) (rest : List Byte), i.WellFormed → decode (encode i ++ rest) = .ok (i, rest)

/-- R80 to R83: what the decoder accepts is the packet of the command it gives, and that command is well-formed. -/
def Obligations.EncodeOfDecode : Prop :=
  ∀ (bytes rest : List Byte) (i : Instr), decode bytes = .ok (i, rest) → i.WellFormed ∧ bytes = encode i ++ rest

/-- R84, R85: the opcode byte alone says whether there is a command, the packet's length alone whether it is whole: opcodes
0x00, 0x0F and 0x15..0xFF are refused, an assigned opcode with too few bytes is refused as a short packet, and with enough
bytes every operand value is accepted and exactly the packet is taken. -/
def Obligations.DecodeByOpcodeAndLength : Prop :=
  ∀ (op : Byte) (bytes : List Byte),
    if op.toNat = 0 ∨ op.toNat = 0x0F ∨ 0x15 ≤ op.toNat then decode (op :: bytes) = .error (.unassignedOpcode op)
    else if (op :: bytes).length < packetLength (op :: bytes) then decode (op :: bytes) = .error (.shortPacket op)
    else ∃ i, decode (op :: bytes) = .ok (i, (op :: bytes).drop (packetLength (op :: bytes)))

/-- R80, R81, R86: packets written out in the spec decode to the commands they stand for. -/
def Obligations.WrittenPacketsDecode : Prop :=
  decode [0x01, 0x03, 0x02] = .ok (.setCursor 3 2, []) ∧
  decode [0x02, 0xFF, 0xFF] = .ok (.advance (-1), []) ∧
  decode [0x03, 0x02, 0x48, 0x69] = .ok (.writeText [0x48, 0x69], []) ∧
  decode [0x0C, 0x07] = .ok (.pgSelect 7, []) ∧
  decode [0x0D, 0xFE, 0x00, 0xFF, 0xFF] = .ok (.bigNumber (-2) 0 65535, []) ∧
  decode [0x10, 0x00, 0x00, 0x04, 0x00, 0x64, 0x00, 0x00, 0x00, 0x02, 0x41, 0x42] =
    .ok (.scConfig 0 0 4 0 100 [0x41, 0x42], []) ∧
  decode [0x11, 0xE8, 0x03, 0x00, 0x00] = .ok (.scUpdate 1000, [])

/-! ## The step -/

/-- R230: when the bytes on the command port decode to a command, a step takes its packet from the port and is exec of
that command. -/
def Obligations.StepRunsDecodedCommand : Prop :=
  ∀ (s : State) (i : Instr) (rest : List Byte),
    decode s.port = .ok (i, rest) → i.WellFormed → step s = exec i { s with port := rest }

/-- R84, R212: with no command waiting the engine stays as it is (the model's reading of idle, log entry 4); on a packet
without meaning the step is refused by name. -/
def Obligations.StepWithoutCommand : Prop :=
  (∀ s : State, s.port = [] → step s = .next s) ∧
  (∀ (s : State) (op : Byte), decode s.port = .error (.unassignedOpcode op) → step s = .refused (.unassignedOpcode op)) ∧
  (∀ (s : State) (op : Byte), decode s.port = .error (.shortPacket op) → step s = .refused (.shortPacket op))

/-- R28, R230: presenting the packets of a list of commands and stepping once for each is running the commands in order,
each to its end before the next. -/
def Obligations.StepsRunHostCommandsInOrder : Prop :=
  ∀ (cmds : List Instr) (s : State), (∀ i ∈ cmds, i.WellFormed) → s.port = [] →
    core.run cmds.length (present (cmds.flatMap encode) s) = runCommands cmds s

/-- R123, R158, R183, R200, R202: no command faults, and a command stops only in the three situations the spec gives no
meaning, each under its own name. -/
def Obligations.CommandsStopOnlyWhereUnspecified : Prop :=
  ∀ (i : Instr) (s : State),
    (∃ t, exec i s = .next t) ∨
    (∃ n, i = .advance n ∧ ((s.cursor.toNat : Int) + n < 0 ∨ 320 ≤ (s.cursor.toNat : Int) + n) ∧
      exec i s = .refused .advanceOutsideDomain) ∨
    (∃ col row digit, i = .bigDigit col row digit ∧ 9 < digit ∧ exec i s = .refused .digitOutsideTable) ∨
    (∃ text, i = .scSetText text ∧ s.scBound = false ∧ exec i s = .refused .setTextBeforeConfig)

/-! ## Reset -/

/-- R221: the state after reset, where the spec gives a value. -/
def Obligations.ResetState : Prop :=
  State.reset.cursor = 0 ∧ State.reset.ciEn = false ∧ State.reset.pgEn = false ∧ State.reset.scBound = false ∧
  State.reset.scEn = false ∧ State.reset.addrStb = .high ∧ State.reset.charStb = .high ∧ State.reset.clr = .high ∧
  State.reset.srData = .low ∧ State.reset.srClk = .low ∧ State.reset.srLatch = .low ∧
  State.reset.shift = .undriven ∧ State.reset.bus = .undriven ∧ State.reset.curInd = .undriven ∧
  State.reset.pageA = .undriven ∧ State.reset.pageB = .undriven ∧ State.reset.trace = [] ∧
  State.reset.ghost.addr = .undriven ∧ (State.reset.ghost.selA, State.reset.ghost.selB) = (.undriven, .undriven) ∧
  ∀ x y a, State.reset.ghost.frame x y a = .unknown

/-! ## Physical encodings -/

/-- R70, R71, R72, R120: SET_CURSOR to any position of the grid leaves an address that decodes to that position. -/
def Obligations.AddressDecodeRecoversPosition : Prop :=
  ∀ (c r : Nat) (s : State), c < 16 → r < 10 →
    ∃ t, exec (.setCursor c r) s = .next t ∧ colOf t.cursor = c ∧ rowOf t.cursor = r ∧ t.cursor.toNat = 16 * r + c

/-- R73: the character encoder is `127 - code`, leaves bit 7 clear and is its own inverse on 0..127. -/
def Obligations.CharacterEncoderIsInvolution : Prop :=
  ∀ code : Nat, code ≤ 127 →
    (enc code).toNat = 127 - code ∧ (enc code).getLsbD 7 = false ∧ enc (enc code).toNat = BitVec.ofNat 8 code

/-! ## Bus and strobes -/

/-- R101, R102, R104, R105: a bus write leaves the byte in SHIFT and BUS; an address write and a character write emit their
five events, leave the byte in SHIFT and BUS and the strobe high, and leave SR_LATCH high, SR_CLK low and SR_DATA at bit 0
of the byte, the levels R102 ends with, which the model gives the serial lines at the BUS level too (log entry 10, DEDUCED);
nothing else changes. -/
def Obligations.BusWriteAndStrobeProtocols : Prop :=
  (∀ (b : Byte) (s : State), (s.emit (.bus b)).shift = .byte b ∧ (s.emit (.bus b)).bus = .byte b ∧
    (s.emit (.bus b)).trace = s.trace ++ [.bus b]) ∧
  (∀ (a : Byte) (s : State), addrWrite a s =
    { s with
      shift := .byte a, bus := .byte a, srLatch := .high, srClk := .low, srData := levelOfBit (a.getLsbD 0)
      addrStb := .high
      trace := s.trace ++
        [.bus a, .drive .addrStb .low, .wait .settle, .drive .addrStb .high, .wait .settle] }) ∧
  (∀ (b : Byte) (s : State), charWrite b s =
    { s with
      shift := .byte b, bus := .byte b, srLatch := .high, srClk := .low, srData := levelOfBit (b.getLsbD 0)
      charStb := .high
      trace := s.trace ++
        [.bus b, .drive .charStb .low, .wait .settle, .drive .charStb .high, .wait .settle] })

/-- R102, R103: whatever the shift register holds, the 26 pin events of a bus write, started with SR_CLK low, leave the
byte in SHIFT and BUS, SR_LATCH high, SR_CLK low and SR_DATA at bit 0; BUS does not change before the last of them. -/
def Obligations.PinExpansionShiftsByteIn : Prop :=
  ∀ (b : Byte) (p : PinState), p.clk = .low →
    p.run (busPins b) =
      { data := levelOfBit (b.getLsbD 0), clk := .low, latch := .high, shift := b, bus := b } ∧
    (busPins b).length = 26 ∧ ∀ k, k < 26 → (p.run ((busPins b).take k)).bus = p.bus

/-! ## Surface commands -/

/-- R120: SET_CURSOR clamps each coordinate on its own, sends the packed address and leaves it in CURSOR; nothing else
changes. -/
def Obligations.SetCursorResult : Prop :=
  ∀ (col row : Int) (s : State),
    let a : Byte := BitVec.ofInt 8 (16 * min 9 (max 0 row) + min 15 (max 0 col))
    exec (.setCursor col row) s = .next { s.emitAll (addrWriteEvents a) with cursor := a }

/-- R122, R123: ADVANCE adds on the linear address, subtracts 160 once from a sum of 160 or more, and sends the new
address; a sum below 0 or of 320 or more is refused. -/
def Obligations.AdvanceResult : Prop :=
  ∀ (n : Int) (s : State),
    let sum := (s.cursor.toNat : Int) + n
    if 0 ≤ sum ∧ sum < 160 then
      exec (.advance n) s =
        .next { s.emitAll (addrWriteEvents (BitVec.ofInt 8 sum)) with cursor := BitVec.ofInt 8 sum }
    else if 160 ≤ sum ∧ sum < 320 then
      exec (.advance n) s =
        .next { s.emitAll (addrWriteEvents (BitVec.ofInt 8 (sum - 160))) with cursor := BitVec.ofInt 8 (sum - 160) }
    else exec (.advance n) s = .refused .advanceOutsideDomain

/-- R124: WRITE_TEXT sends, for each character in turn, its character write and the address of the following cell, and
leaves CURSOR at `(CURSOR + len) mod 160`; nothing else changes; so with the default TEXT_ADDR_AFTER_EACH = 1 (log entry
9, DESIGN CHOICE). -/
def Obligations.WriteTextResult : Prop :=
  ∀ (text : List Byte) (s : State), CursorInGrid s →
    exec (.writeText text) s =
      .next { s.emitAll (textEvents true s.cursor.toNat text) with
              cursor := BitVec.ofNat 8 ((s.cursor.toNat + text.length) % 160) }

/-- R125: one character of a text run is upper-cased, clamped, encoded and written; then CURSOR moves on by one with 160
reset to 0, and the new address is sent exactly where TEXT_ADDR_AFTER_EACH is set. -/
def Obligations.TextPutResult : Prop :=
  ∀ (p : Params) (ch : Byte) (s : State), CursorInGrid s →
    let up := if 97 ≤ ch.toNat ∧ ch.toNat ≤ 122 then ch.toNat - 32 else ch.toNat
    let code := min 126 (max 32 up)
    let a : Byte := if s.cursor.toNat = 159 then 0 else s.cursor + 1
    textPut p s ch =
      { s.emitAll (charWriteEvents (BitVec.ofNat 8 (127 - code)) ++
          if p.textAddrAfterEach then addrWriteEvents a else []) with cursor := a }

/-- R126: from any cell of the grid the two wrap rules agree on a step of one cell. -/
def Obligations.WrapRulesAgreeForOneStep : Prop :=
  ∀ (s : State) (ch : Byte), CursorInGrid s →
    ∃ t u, exec (.advance 1) s = .next t ∧ exec (.writeText [ch]) s = .next u ∧ t.cursor = u.cursor

/-- R127: WRITE_CHAR clamps to 32..126, without upper-casing, and sends one character write; CURSOR and all else stay. -/
def Obligations.WriteCharResult : Prop :=
  ∀ (ch : Nat) (s : State),
    exec (.writeChar ch) s = .next (s.emitAll (charWriteEvents (BitVec.ofNat 8 (127 - min 126 (max 32 ch)))))

/-- R128: WRITE_CHAR_AT is SET_CURSOR, then WRITE_CHAR: address write, character write, CURSOR at the written cell. -/
def Obligations.WriteCharAtResult : Prop :=
  ∀ (col row : Int) (ch : Nat) (s : State),
    let a : Byte := BitVec.ofInt 8 (16 * min 9 (max 0 row) + min 15 (max 0 col))
    exec (.writeCharAt col row ch) s = andThen (exec (.setCursor col row) s) (exec (.writeChar ch)) ∧
    exec (.writeCharAt col row ch) s =
      .next { s.emitAll (addrWriteEvents a ++ charWriteEvents (BitVec.ofNat 8 (127 - min 126 (max 32 ch)))) with
              cursor := a }

/-- R129: WRITE_BLOCK_AT sends the address of the clamped position, then the byte 0x00 of the block glyph. -/
def Obligations.WriteBlockAtResult : Prop :=
  ∀ (col row : Int) (s : State),
    let a : Byte := BitVec.ofInt 8 (16 * min 9 (max 0 row) + min 15 (max 0 col))
    exec (.writeBlockAt col row) s =
      .next { s.emitAll (addrWriteEvents a ++ charWriteEvents 0x00) with cursor := a }

/-- R130: CLEAR emits exactly its three events, leaves CLR high and changes nothing else. -/
def Obligations.ClearResult : Prop :=
  ∀ s : State,
    exec .clear s =
      .next { s with clr := .high, trace := s.trace ++ [.drive .clr .low, .wait .clear, .drive .clr .high] }

/-! ## Optional lines -/

/-- R140, R141, R142: CI_BEGIN sets CI_EN and does nothing else; CI_SHOW drives CUR_IND high and CI_HIDE low, with one
event, when CI_EN is set, and neither does anything when it is not. -/
def Obligations.CursorIndicatorResults : Prop :=
  ∀ s : State,
    exec .ciBegin s = .next { s with ciEn := true } ∧
    exec .ciShow s =
      .next (if s.ciEn then { s with curInd := .high, trace := s.trace ++ [.drive .curInd .high] } else s) ∧
    exec .ciHide s =
      .next (if s.ciEn then { s with curInd := .low, trace := s.trace ++ [.drive .curInd .low] } else s)

/-- R77, R144, R145: PG_BEGIN sets PG_EN and does nothing else; PG_SELECT clamps the page to 0..3 and drives PAGE_A low
exactly for an odd page, then PAGE_B low exactly for page 2 or 3, when PG_EN is set, and does nothing when it is not. -/
def Obligations.PagingResults : Prop :=
  ∀ (page : Int) (s : State),
    let q := min 3 (max 0 page)
    let a : Drive := if q = 1 ∨ q = 3 then .low else .high
    let b : Drive := if 2 ≤ q then .low else .high
    exec .pgBegin s = .next { s with pgEn := true } ∧
    exec (.pgSelect page) s =
      .next (if s.pgEn then
        { s with
          pageA := a.toLevel, pageB := b.toLevel, trace := s.trace ++ [.drive .pageA a, .drive .pageB b] }
      else s)

/-- R23, R64: after an enabled PG_SELECT the page view and the ghost's selection name the clamped page. -/
def Obligations.SelectedPageIsClampedPage : Prop :=
  ∀ (page : Int) (s : State), s.pgEn = true →
    ∃ t, exec (.pgSelect page) s = .next t ∧ t.page = some (min 3 (max 0 page)).toNat ∧
      pageOf t.ghost.selA t.ghost.selB = some (min 3 (max 0 page)).toNat

/-- R236: where both page bits change, PG_SELECT takes the lines through a third page, with no wait between its two
events: from page 0 to 3 through 1, from 3 to 0 through 2, from 1 to 2 through 0, from 2 to 1 through 3. -/
def Obligations.PageChangePassesThroughThirdPage : Prop :=
  ∀ (source via target : Nat) (s : State),
    (source, via, target) ∈ [(0, 1, 3), (3, 2, 0), (1, 0, 2), (2, 3, 1)] → s.pgEn = true → s.page = some source →
    ∃ t a b, exec (.pgSelect target) s = .next t ∧ t.trace = s.trace ++ [.drive .pageA a, .drive .pageB b] ∧
      (selections (s.pageA, s.pageB) [.drive .pageA a, .drive .pageB b]).map (fun sel => pageOf sel.1 sel.2) =
        [some source, some via, some target]

/-! ## Big numbers -/

/-- R157, R158, R159: BIG_DIGIT draws, row by row, exactly the cells of the 3×5 box that lie in the grid, each with an
address write and the character write of a block (0x00) or a space (0x5F) as the glyph table says, and leaves CURSOR at
the last cell drawn; a digit above 9 is refused. -/
def Obligations.BigDigitResult : Prop :=
  ∀ (col row : Int) (digit : Nat) (s : State),
    if h : digit < 10 then
      let cells := digitCells params ⟨digit, h⟩ col row
      exec (.bigDigit col row digit) s =
        .next { s.emitAll (cellEvents cells) with cursor := lastCell s.cursor cells }
    else exec (.bigDigit col row digit) s = .refused .digitOutsideTable

/-- R155, R156, R160: BIG_NUMBER draws the decimal digits of the number, most significant first, each four columns right
of the one before, and for the number 0 draws nothing. -/
def Obligations.BigNumberResult : Prop :=
  ∀ (col row : Int) (number : Nat) (s : State),
    ∃ digits : List (Fin 10), digits.map Fin.val = (Nat.digits 10 number).reverse ∧
      exec (.bigNumber col row number) s =
        .next { s.emitAll (cellEvents (numberCells params col row digits)) with
                cursor := lastCell s.cursor (numberCells params col row digits) }

/-- R87, R155: BIG_NUMBER is a sequence of BIG_DIGIT commands, and with the number 0 the empty one. -/
def Obligations.BigNumberIsBigDigits : Prop :=
  ∀ (col row : Int) (number : Nat) (s : State),
    exec (.bigNumber col row number) s =
      runCommands ((Nat.digits 10 number).reverse.zipIdx.map fun d => .bigDigit (col + 4 * (d.2 : Int)) row d.1) s

/-! ## Scroll window -/

/-- R32, R172: in both settings of WINDOW_END_INCLUSIVE the window's length is 1 for an end not after the start, else the
difference (plus one), and the window never crosses the end of the cell space. -/
def Obligations.WindowLengthRule : Prop :=
  ∀ (p : Params) (scol srow ecol erow : Int),
    let s := 16 * min 9 (max 0 srow) + min 15 (max 0 scol)
    let e := 16 * min 9 (max 0 erow) + min 15 (max 0 ecol)
    let w := winLen p (cellAt scol srow) ecol erow
    (w : Int) = (if s < e then e - s + (if p.windowEndInclusive then 1 else 0) else 1) ∧ 1 ≤ w ∧ s + w ≤ 160

/-- R170, R171, R172: SC_CONFIG writes every scroll register, sets SC_BOUND and SC_EN, and does nothing else: no event, no
cursor move; the length is that of the default WINDOW_END_INCLUSIVE = 0 (log entry 9, DESIGN CHOICE). -/
def Obligations.ScConfigResult : Prop :=
  ∀ (scol srow ecol erow : Int) (delay : Time) (text : List Byte) (s : State), TextFits text →
    let start := 16 * min 9 (max 0 srow) + min 15 (max 0 scol)
    let stop := 16 * min 9 (max 0 erow) + min 15 (max 0 ecol)
    let w : Int := if start < stop then stop - start else 1
    exec (.scConfig scol srow ecol erow delay text) s =
      .next { s with
        areaStart := BitVec.ofInt 8 start, areaLen := BitVec.ofInt 8 w, text := text
        textLen := BitVec.ofNat 8 text.length, phase := BitVec.ofInt 9 (w + text.length)
        delay := delay, lastTick := 0, scBound := true, scEn := true }

/-- R176, R177, R183: SC_UPDATE does nothing at all while no window is bound, while scrolling is disabled, or while fewer
than DELAY milliseconds, counted modulo 2^32, have passed since the last tick. -/
def Obligations.ScUpdateGateClosed : Prop :=
  ∀ (now : Time) (s : State),
    s.scBound = false ∨ s.scEn = false ∨
      (((now.toNat : Int) - s.lastTick.toNat) % 4294967296).toNat < s.delay.toNat →
    exec (.scUpdate now) s = .next s

/-- R178, R179, R180: in both settings of TEXT_ADDR_AFTER_EACH a tick of a legal window sets the position and sends W
spaces, then draws the present regime's slice or, where there is none, nothing at all, and steps PHASE from 0 to W + L or
down by one; CURSOR follows the last cell written and nothing else changes. -/
def Obligations.TickResult : Prop :=
  ∀ (cfg : Params) (s : State), WindowLegal s →
    let p := s.phase.toNat
    let w := s.areaLen.toNat
    let start := s.areaStart.toNat
    let l := s.textLen.toNat
    let k := if l ≤ p then min (w + l - p) l else min p w
    let pos := if l ≤ p then start + p - l else start
    let first := if l ≤ p then 0 else l - p
    let drawn := (s.text.drop first).take k
    tick cfg s =
      { s.emitAll (positionedTextEvents cfg.textAddrAfterEach start (List.replicate w 32) ++
          if 0 < k then positionedTextEvents cfg.textAddrAfterEach pos drawn else []) with
        cursor := BitVec.ofNat 8 (if 0 < k then (pos + k) % 160 else (start + w) % 160)
        phase := BitVec.ofNat 9 (if p = 0 then w + l else p - 1) }

/-- R176 to R180: with the gate open, SC_UPDATE records the time, clears the window, renders the present regime's slice
and steps the phase, with exactly these events and nothing else changed; the events are those of the default
TEXT_ADDR_AFTER_EACH = 1 (log entry 9, DESIGN CHOICE). -/
def Obligations.ScUpdateTicks : Prop :=
  ∀ (now : Time) (s : State), s.scBound = true → s.scEn = true → WindowLegal s →
    s.delay.toNat ≤ (((now.toNat : Int) - s.lastTick.toNat) % 4294967296).toNat →
    let p := s.phase.toNat
    let w := s.areaLen.toNat
    let start := s.areaStart.toNat
    exec (.scUpdate now) s =
      .next { s.emitAll (windowClearEvents true start w ++ renderEvents true p w start s.text) with
        cursor := BitVec.ofNat 8 (tickCursor p w start s.text)
        lastTick := now
        phase := BitVec.ofNat 9 (if p = 0 then w + s.textLen.toNat else p - 1) }

/-- R182, R183: SC_SET_TEXT on a bound window replaces the text and its length, resets the phase to `W + len`, clears the
window and leaves SC_EN set, with nothing else changed; the events are those of the default TEXT_ADDR_AFTER_EACH = 1 (log
entry 9, DESIGN CHOICE); without a window it is refused (R183). -/
def Obligations.ScSetTextResult : Prop :=
  ∀ (text : List Byte) (s : State), TextFits text →
    (s.scBound = true → s.areaStart.toNat < 160 →
      exec (.scSetText text) s =
        .next { s.emitAll (windowClearEvents true s.areaStart.toNat s.areaLen.toNat) with
          cursor := BitVec.ofNat 8 ((s.areaStart.toNat + s.areaLen.toNat) % 160)
          text := text, textLen := BitVec.ofNat 8 text.length
          phase := BitVec.ofNat 9 (s.areaLen.toNat + text.length), scEn := true }) ∧
    (s.scBound = false → exec (.scSetText text) s = .refused .setTextBeforeConfig)

/-- R184, R185: SC_ENABLE and SC_DISABLE write SC_EN and nothing else, before SC_CONFIG too (R183), and after SC_DISABLE
every SC_UPDATE leaves the state, LAST_TICK included, as it is. -/
def Obligations.ScEnableDisableResults : Prop :=
  ∀ s : State, exec .scEnable s = .next { s with scEn := true } ∧ exec .scDisable s = .next { s with scEn := false } ∧
    ∀ now : Time, exec (.scUpdate now) { s with scEn := false } = .next { s with scEn := false }

/-- R186: in a bound, enabled window with DELAY 0, updates bring the phase down by one each, a whole cycle of W + L + 1
updates brings it back with every other scroll register but LAST_TICK, and the update after it repeats the first event for
event. -/
def Obligations.ScrollCycleReturns : Prop :=
  ∀ (s : State), s.scBound = true → s.scEn = true → s.delay = 0 → WindowLegal s →
    (∀ nows : List Time, nows.length ≤ s.phase.toNat →
      ∃ t, runCommands (nows.map .scUpdate) s = .next t ∧ t.phase.toNat = s.phase.toNat - nows.length) ∧
    (∀ nows : List Time, nows.length = s.areaLen.toNat + s.textLen.toNat + 1 →
      ∃ t, runCommands (nows.map .scUpdate) s = .next t ∧ t.phase = s.phase ∧ t.areaStart = s.areaStart ∧
        t.areaLen = s.areaLen ∧ t.text = s.text ∧ t.textLen = s.textLen ∧ t.delay = s.delay ∧ t.scEn = true ∧
        ∀ now, ∃ u v es, exec (.scUpdate now) s = .next u ∧ exec (.scUpdate now) t = .next v ∧
          u.trace = s.trace ++ es ∧ v.trace = t.trace ++ es ∧ u.cursor = v.cursor)

/-! ## Who writes what -/

/-- R22, R23, R30, R31, R37: the four mode bits and their only writers; CI_EN, PG_EN and SC_BOUND are never cleared. -/
def Obligations.ModeBitWriters : Prop :=
  ∀ (i : Instr) (s t : State), exec i s = .next t →
    t.ciEn = (s.ciEn || decide (i = .ciBegin)) ∧
    t.pgEn = (s.pgEn || decide (i = .pgBegin)) ∧
    t.scBound = (s.scBound || match i with | .scConfig _ _ _ _ _ _ => true | _ => false) ∧
    t.scEn = (match i with
      | .scConfig _ _ _ _ _ _ => true
      | .scSetText _ => true
      | .scEnable => true
      | .scDisable => false
      | _ => s.scEn)

/-- R32 to R35, R42: the scroll registers and their only writers; no surface, optional-line or big-number command writes
one. -/
def Obligations.ScrollRegisterWriters : Prop :=
  ∀ (i : Instr) (s t : State), exec i s = .next t →
    match i with
    | .scConfig _ _ _ _ _ _ => True
    | .scSetText _ =>
      t.areaStart = s.areaStart ∧ t.areaLen = s.areaLen ∧ t.lastTick = s.lastTick ∧ t.delay = s.delay
    | .scUpdate _ =>
      t.areaStart = s.areaStart ∧ t.areaLen = s.areaLen ∧ t.text = s.text ∧ t.textLen = s.textLen ∧
      t.delay = s.delay
    | _ => SameScroll s t

/-- R20: CURSOR is left alone by WRITE_CHAR, CLEAR, the optional-line commands, SC_CONFIG, SC_ENABLE and SC_DISABLE. -/
def Obligations.CursorFrame : Prop :=
  ∀ (i : Instr) (s t : State), exec i s = .next t →
    match i with
    | .writeChar _ | .clear | .ciBegin | .ciShow | .ciHide | .pgBegin | .pgSelect _
    | .scConfig _ _ _ _ _ _ | .scEnable | .scDisable => t.cursor = s.cursor
    | _ => True

/-- R26, R27, R100: CUR_IND changes only by CI_SHOW and CI_HIDE, the page lines only by PG_SELECT, and CLR only by CLEAR; a
command without a bus write leaves SHIFT, BUS, the serial lines and both strobes alone; no command touches BUSY or the
command port. -/
def Obligations.LineWriters : Prop :=
  ∀ (i : Instr) (s t : State), exec i s = .next t →
    t.busy = s.busy ∧ t.port = s.port ∧ (t.clr = s.clr ∨ i = .clear) ∧
    (t.curInd = s.curInd ∨ i = .ciShow ∨ i = .ciHide) ∧
    ((t.pageA = s.pageA ∧ t.pageB = s.pageB) ∨ ∃ page, i = .pgSelect page) ∧
    match i with
    | .clear | .ciBegin | .ciShow | .ciHide | .pgBegin | .pgSelect _ | .scConfig _ _ _ _ _ _ | .scEnable
    | .scDisable =>
      t.shift = s.shift ∧ t.bus = s.bus ∧ t.srData = s.srData ∧ t.srClk = s.srClk ∧ t.srLatch = s.srLatch ∧
      t.addrStb = s.addrStb ∧ t.charStb = s.charStb
    | _ => True

/-- R40, R58: a step never takes an event back: TRACE only grows at its end. -/
def Obligations.TraceOnlyGrows : Prop :=
  ∀ s t : State, step s = .next t → ∃ es, t.trace = s.trace ++ es

/-- R107, R238, R240: a command blocks the engine for two settle times per bus write and one clear hold per pulse on CLR,
whatever the positive durations are. -/
def Obligations.BlockingTimeOfCommand : Prop :=
  0 < params.tSettle ∧ 0 < params.tClear ∧
  ∀ (i : Instr) (s t : State) (es : List Event), exec i s = .next t → t.trace = s.trace ++ es →
    ∀ p : Params, blockingTime p es = 2 * p.tSettle * busCount es + p.tClear * pulseCount .clr es

/-! ## The display, as the ghost model reads it -/

/-- R61, R121: a command that positions the cursor leaves the peripheral's latched address equal to CURSOR. -/
def Obligations.PositioningLatchesCursor : Prop :=
  ∀ (col row n : Int) (ch : Nat) (s t : State),
    (exec (.setCursor col row) s = .next t ∨ exec (.advance n) s = .next t ∨
      exec (.writeCharAt col row ch) s = .next t ∨ exec (.writeBlockAt col row) s = .next t) →
    t.ghost.addr = .byte t.cursor

/-- R53, R61, R64: SET_CURSOR, ADVANCE, the optional-line commands, SC_CONFIG, SC_ENABLE and SC_DISABLE change no cell of
any page. -/
def Obligations.NoCellWithoutCharacterWrite : Prop :=
  ∀ (i : Instr) (s t : State), exec i s = .next t →
    match i with
    | .setCursor _ _ | .advance _ | .ciBegin | .ciShow | .ciHide | .pgBegin | .pgSelect _
    | .scConfig _ _ _ _ _ _ | .scEnable | .scDisable => t.ghost.frame = s.ghost.frame
    | _ => True

/-- R62, R127, R128, R129: WRITE_CHAR shows its clamped code in the latched cell, WRITE_CHAR_AT and WRITE_BLOCK_AT show
theirs in the cell of the clamped position, and no other cell of any page changes. -/
def Obligations.CharacterLandsInOneCell : Prop :=
  (∀ (ch : Nat) (s : State) (a : Byte), s.ghost.addr = .byte a → a.toNat < 160 →
    ∃ t, exec (.writeChar ch) s = .next t ∧ Shows (cellShown a.toNat (min 126 (max 32 ch))) s.ghost t.ghost) ∧
  (∀ (col row : Int) (ch : Nat) (s : State),
    ∃ t, exec (.writeCharAt col row ch) s = .next t ∧
      Shows (cellShown t.cursor.toNat (min 126 (max 32 ch))) s.ghost t.ghost) ∧
  (∀ (col row : Int) (s : State),
    ∃ t, exec (.writeBlockAt col row) s = .next t ∧ Shows (cellShown t.cursor.toNat 127) s.ghost t.ghost)

/-- R62, R231: a character write with no known latched address leaves nothing known of the selected page. -/
def Obligations.UnpositionedWriteLosesPage : Prop :=
  ∀ (ch : Nat) (s : State), s.ghost.addr = .undriven →
    ∃ t, exec (.writeChar ch) s = .next t ∧ Shows (fun _ => some .unknown) s.ghost t.ghost ∧
      t.ghost.addr = .undriven

/-- R124, R125, R231: WRITE_TEXT with the host duty met (CURSOR latched) shows each upper-cased, clamped
character in its cell, the last one written where the text is longer than the cell space, and changes no other cell; so with
the default TEXT_ADDR_AFTER_EACH = 1 (log entry 9, DESIGN CHOICE). -/
def Obligations.TextShownAtItsCells : Prop :=
  ∀ (text : List Byte) (s : State), CursorInGrid s → LatchedIsCursor s → Positioned s →
    ∃ t, exec (.writeText text) s = .next t ∧ Shows (textShown s.cursor.toNat text) s.ghost t.ghost ∧
      t.ghost.addr = .byte t.cursor

/-- R63: CLEAR leaves every cell of the selected page cleared, every other page unknown, and the latched address
unknown. -/
def Obligations.ClearClearsSelectedPage : Prop :=
  ∀ s : State, ∃ t, exec .clear s = .next t ∧ t.ghost.addr = .undriven ∧
    t.ghost.selA = s.ghost.selA ∧ t.ghost.selB = s.ghost.selB ∧
    ∀ x y a, t.ghost.frame x y a =
      if x = s.ghost.selA ∧ y = s.ghost.selB then .cleared else .unknown

/-- R157, R159: BIG_DIGIT erases what it draws over: each cell of its box that lies in the grid shows block or space as
the glyph table says, and no other cell changes. -/
def Obligations.BigDigitCoversItsBox : Prop :=
  ∀ (col row : Int) (d : Fin 10) (s : State),
    ∃ t, exec (.bigDigit col row d.val) s = .next t ∧ Shows (digitShown params d col row) s.ghost t.ghost

/-- R173: a tick at phase p leaves window cell i showing text character `i + L - p`, or a space where there is none, and
changes no other cell; so with the default TEXT_ADDR_AFTER_EACH = 1 (log entry 9, DESIGN CHOICE). -/
def Obligations.TickShowsFrame : Prop :=
  ∀ (now : Time) (s : State), s.scBound = true → s.scEn = true → WindowLegal s →
    s.delay.toNat ≤ (now - s.lastTick).toNat →
    ∃ t, exec (.scUpdate now) s = .next t ∧
      Shows (windowShown s.areaStart.toNat s.areaLen.toNat s.phase.toNat s.text) s.ghost t.ghost

/-- R182: SC_SET_TEXT leaves no character of the old text: every window cell shows a space, and no other cell changes; so
with the default TEXT_ADDR_AFTER_EACH = 1 (log entry 9, DESIGN CHOICE). -/
def Obligations.SetTextLeavesNoStaleCharacter : Prop :=
  ∀ (text : List Byte) (s : State), s.scBound = true → WindowLegal s → TextFits text →
    ∃ t, exec (.scSetText text) s = .next t ∧
      Shows (fun x => if s.areaStart.toNat ≤ x ∧ x < s.areaStart.toNat + s.areaLen.toNat then some (.code 32) else none)
        s.ghost t.ghost

/-! ## Invariants -/

/-- R221: the reset state is legal, its trace agrees with its lines at both levels and is disciplined, and the peripheral
has latched nothing, so that the latched address is not at odds with CURSOR. -/
def Obligations.ResetMeetsInvariants : Prop :=
  Legal State.reset ∧ TraceAgrees State.reset ∧ Disciplined State.reset.trace ∧
  State.reset.ghost.addr = .undriven ∧ LatchedIsCursor State.reset ∧
  PinsAgree State.reset

/-- R21, R24 to R27, R30 to R34: every step keeps every register legal: CURSOR in 0..159, the strobes and CLR high between
commands, a bound window inside the cell space with its phase in `0..W + L`, the optional lines undriven until begun. -/
def Obligations.StepKeepsLegal : Prop :=
  ∀ s t : State, Legal s → step s = .next t → Legal t

/-- R12, R27, R40: every step keeps the bus and the six lines of DRIVE events (both strobes, CLR, CUR_IND, the page lines)
equal to what TRACE says of them. -/
def Obligations.StepKeepsTraceAgrees : Prop :=
  ∀ s t : State, TraceAgrees s → step s = .next t → TraceAgrees t

/-- R106: every step keeps the strobe discipline: no bus write and no drive of the other strobe inside a strobe pulse. -/
def Obligations.StepKeepsStrobeDiscipline : Prop :=
  ∀ s t : State, Disciplined s.trace → step s = .next t → Disciplined t.trace

/-- R121, R124, R231: every step keeps the peripheral's latched address equal to CURSOR, or unknown; so with the default
TEXT_ADDR_AFTER_EACH = 1 (log entry 9, DESIGN CHOICE), without which a text run moves CURSOR alone. -/
def Obligations.StepKeepsLatchedAddress : Prop :=
  ∀ s t : State, Legal s → LatchedIsCursor s → step s = .next t → LatchedIsCursor t

/-- R102, R103: every step keeps the pin-level expansion of TRACE in agreement with the serial lines, SHIFT and BUS,
whatever the undriven shift register holds. -/
def Obligations.StepKeepsPinLevelAgreement : Prop :=
  ∀ s t : State, s.srClk = .low → PinsAgree s → step s = .next t → t.srClk = .low ∧ PinsAgree t

/-! ## What the machine must not depend on -/

/-- R29: no step reads BUSY: with any other level on it the step does the same and leaves that level. -/
def Obligations.BusyIsNeverRead : Prop :=
  ∀ (s : State) (v : Level),
    step { s with busy := v } =
      match step s with
      | .next t => .next { t with busy := v }
      | .fault r => .fault r
      | .refused r => .refused r

/-- U5, U6, U7, U10 (R25, R27, R29, R30, R221, R239): from two states that differ only in what the spec leaves unspecified
(CUR_IND, PAGE_A and PAGE_B, each while undriven, SHIFT and BUS, BUSY, the scroll registers while no window is bound) a step
gives outcomes that differ only in the same way; so no value the model names for them at reset can matter (log entries 1,
2, 3). -/
def Obligations.UnspecifiedValuesDoNotMatter : Prop :=
  ∀ s t : State, SameBesidesUnspecified s t → SameOutcome SameBesidesUnspecified (step s) (step t)
end

