-- ==== Sys2Proof/Laws/Operands.lean ====
section
/-! SUPPORT. What the operand functions compute, once each, in plain arithmetic. -/

namespace Sys2Proof.Machine

theorem clamp_eq (v lo hi : Int) (h : lo ≤ hi) : clamp v lo hi = min hi (max lo v) := by
  unfold clamp; split
  · omega
  · split <;> omega

theorem clampCol_eq (c : Int) : (clampCol c : Int) = min 15 (max 0 c) := by
  simp only [clampCol, Config.cols, clamp_eq _ 0 ((16 : Nat) - 1) (by omega)]; omega

theorem clampRow_eq (r : Int) : (clampRow r : Int) = min 9 (max 0 r) := by
  simp only [clampRow, Config.rows, clamp_eq _ 0 ((10 : Nat) - 1) (by omega)]; omega

theorem clampCh_eq (ch : Int) : (clampCh ch : Int) = min 126 (max 32 ch) := by
  simp only [clampCh, Config.chMin, Config.chMax, clamp_eq _ (32 : Nat) (126 : Nat) (by omega)]; omega

theorem clampCol_lt (c : Int) : clampCol c < 16 := by have := clampCol_eq c; omega
theorem clampRow_lt (r : Int) : clampRow r < 10 := by have := clampRow_eq r; omega
theorem clampCh_bounds (ch : Int) : 32 ≤ clampCh ch ∧ clampCh ch ≤ 126 := by have := clampCh_eq ch; omega
theorem disp_bounds (ch : Nat) : 32 ≤ disp ch ∧ disp ch ≤ 126 := clampCh_bounds _

/-- The nibble pack of an in-range position is `16 * r + c` (R70). -/
theorem pack_eq (c r : Nat) (hc : c < 16) (hr : r < 10) : pack c r = BitVec.ofNat 8 (16 * r + c) := by
  have : ∀ (c : Fin 16) (r : Fin 10), pack c r = BitVec.ofNat 8 (16 * r + c) := by decide
  exact this ⟨c, hc⟩ ⟨r, hr⟩

theorem pack_toNat (c r : Nat) (hc : c < 16) (hr : r < 10) : (pack c r).toNat = 16 * r + c := by
  rw [pack_eq c r hc hr, BitVec.toNat_ofNat]; omega

theorem cellAt_toNat (col row : Int) : (cellAt col row).toNat = 16 * clampRow row + clampCol col :=
  pack_toNat _ _ (clampCol_lt col) (clampRow_lt row)

theorem cellAt_lt (col row : Int) : (cellAt col row).toNat < 160 := by
  have := cellAt_toNat col row; have := clampCol_lt col; have := clampRow_lt row; omega

/-- Inside the grid the clamp does nothing (R203). -/
theorem cellAt_inGrid (x y : Int) (hx : 0 ≤ x ∧ x ≤ 15) (hy : 0 ≤ y ∧ y ≤ 9) :
    cellAt x y = BitVec.ofNat 8 (16 * y + x).toNat := by
  apply BitVec.eq_of_toNat_eq
  have := cellAt_toNat x y; have := clampCol_eq x; have := clampRow_eq y
  rw [BitVec.toNat_ofNat]; omega

/-- `Enc(code) = 127 - code` (R73). -/
theorem enc_eq (code : Nat) (h : code ≤ 127) : enc code = BitVec.ofNat 8 (127 - code) := by
  have : ∀ code : Fin 128, enc code = BitVec.ofNat 8 (127 - code) := by decide
  exact this ⟨code, by omega⟩

/-- Re-inverting the transmitted byte recovers the code (R62, R73). -/
theorem enc_reinvert (code : Nat) (h : code ≤ 127) : (~~~(enc code) &&& 0x7F#8).toNat = code := by
  have : ∀ code : Fin 128, (~~~(enc code) &&& 0x7F#8).toNat = code := by decide
  exact this ⟨code, by omega⟩

theorem enc_toNat (code : Nat) (h : code ≤ 127) : (enc code).toNat = 127 - code := by
  rw [enc_eq code h, BitVec.toNat_ofNat]; omega

/-- The text step is `+ 1` modulo 160 on the cells (R125). -/
theorem nextCell_eq (a : Byte) (h : a.toNat < 160) : nextCell a = BitVec.ofNat 8 ((a.toNat + 1) % 160) := by
  unfold nextCell
  by_cases h' : a.toNat + 1 = 160
  · simp [Config.nCells, h']
  · simp [Config.nCells, h', Nat.mod_eq_of_lt (show a.toNat + 1 < 160 by omega)]

theorem nextCell_toNat (a : Byte) (h : a.toNat < 160) : (nextCell a).toNat = (a.toNat + 1) % 160 := by
  rw [nextCell_eq a h, BitVec.toNat_ofNat]; omega

theorem nextCell_lt (a : Byte) (h : a.toNat < 160) : (nextCell a).toNat < 160 := by
  rw [nextCell_toNat a h]; omega

/-- The ADVANCE sum with its one subtraction, in numbers (R122). -/
theorem advanceSum_eq (cursor : Byte) (n : Int) :
    advanceSum cursor n = if 160 ≤ (cursor.toNat : Int) + n then cursor.toNat + n - 160 else cursor.toNat + n := rfl

/-- The text step, in numbers (R125). -/
theorem nextCell_eq_ite (cursor : Byte) :
    nextCell cursor = if cursor.toNat + 1 = 160 then 0 else BitVec.ofNat 8 (cursor.toNat + 1) := rfl

/-- The clamped, packed address of a position, in numbers (R120). -/
theorem cellAt_ofInt (col row : Int) :
    cellAt col row = BitVec.ofInt 8 (16 * min 9 (max 0 row) + min 15 (max 0 col)) := by
  have := cellAt_toNat col row; have := clampCol_eq col; have := clampRow_eq row
  rw [← show ((cellAt col row).toNat : Int) = 16 * min 9 (max 0 row) + min 15 (max 0 col) by omega]
  simp

/-- The bus byte of a clamped character, in numbers (R73, R74). -/
theorem enc_clampCh (ch : Nat) : enc (clampCh ch) = BitVec.ofNat 8 (127 - min 126 (max 32 ch)) := by
  have := clampCh_eq ch; have := clampCh_bounds ch
  rw [enc_eq _ (by omega)]; congr 1; omega

theorem disp_eq (ch : Nat) : disp ch = min 126 (max 32 (if 97 ≤ ch ∧ ch ≤ 122 then ch - 32 else ch)) := by
  have := clampCh_eq (upper ch)
  unfold disp; unfold upper at *; omega

/-- The clamped page is one of four. -/
theorem clampPage_cases (page : Int) :
    clamp page 0 ((Config.nPages : Int) - 1) = min 3 (max 0 page) ∧
      (min 3 (max 0 page) = 0 ∨ min 3 (max 0 page) = 1 ∨ min 3 (max 0 page) = 2 ∨ min 3 (max 0 page) = (3 : Int)) := by
  refine ⟨?_, by omega⟩
  rw [clamp_eq _ _ _ (by simp [Config.nPages])]; rfl

/-- Bit 0 of the page bits as a level (R77). -/
theorem pageBits_lineA (page : Int) :
    levelOfBit ((pageBits page).getLsbD 0) =
      if min 3 (max 0 page) = 1 ∨ min 3 (max 0 page) = 3 then .low else .high := by
  obtain ⟨h1, h2⟩ := clampPage_cases page
  unfold pageBits; rw [h1]
  rcases h2 with h | h | h | h <;> rw [h] <;> decide

/-- Bit 1 of the page bits as a level (R77). -/
theorem pageBits_lineB (page : Int) :
    levelOfBit ((pageBits page).getLsbD 1) = if 2 ≤ min 3 (max 0 page) then .low else .high := by
  obtain ⟨h1, h2⟩ := clampPage_cases page
  unfold pageBits; rw [h1]
  rcases h2 with h | h | h | h <;> rw [h] <;> decide

/-- Elapsed time as arithmetic modulo 2^32 (R177). -/
theorem elapsed_toNat (now last : Time) :
    (elapsed now last).toNat = (((now.toNat : Int) - last.toNat) % 4294967296).toNat := by
  unfold elapsed; rw [BitVec.toNat_sub]; have := now.isLt; have := last.isLt; omega

/-- The counting loop counts the decimal digits (R156). -/
theorem digitCountLoop_eq (fuel t : Nat) (h : t ≤ fuel) : digitCountLoop fuel t = (Nat.digits 10 t).length := by
  induction fuel generalizing t with
  | zero => obtain rfl : t = 0 := by omega
            simp [digitCountLoop]
  | succ fuel ih =>
    unfold digitCountLoop; split
    · next ht =>
      rw [ih (t / 10) (by omega), Nat.digits_def' (by omega) ht]; simp
    · obtain rfl : t = 0 := by omega
      simp

theorem digitCount_eq (n : Nat) : digitCount n = (Nat.digits 10 n).length := digitCountLoop_eq n n le_rfl

/-- Digit i counted from the most significant is digit `cnt - 1 - i` of the decimal digits (R155). -/
theorem digitAt_val (n i : Nat) (hi : i < digitCount n) :
    (digitAt n (digitCount n) i).val = (Nat.digits 10 n).reverse.getD i 0 := by
  rw [digitCount_eq] at *
  simp only [digitAt]
  rw [List.getD_eq_getElem?_getD, List.getElem?_reverse (by simpa using hi)]
  rw [← List.getD_eq_getElem?_getD, Nat.getD_digits _ _ (by omega)]

/-- A window's length in both settings of WINDOW_END_INCLUSIVE: at least 1, and it stays in the cell space (R32, R172). -/
theorem winLen_bounds (p : Params) (start : Byte) (ecol erow : Int) (h : start.toNat < 160) :
    1 ≤ winLen p start ecol erow ∧ start.toNat + winLen p start ecol erow ≤ 160 := by
  have := cellAt_lt ecol erow
  unfold winLen; dsimp only; split
  · split <;> omega
  · omega

theorem renderPlan_bounds (p l w s : Nat) (hp : p ≤ w + l) :
    let plan := renderPlan p l w s
    plan.first + plan.count ≤ l ∧
      s ≤ plan.pos ∧ plan.pos + plan.count ≤ s + w := by
  dsimp only [renderPlan]; split <;> dsimp only <;> omega

end Sys2Proof.Machine
end

