-- ==== Sys2Proof/Laws/State.lean ====
section
/-! SUPPORT. One lemma per field for each update of the state: a named register write changes its register alone; emitting
events touches the lines, the bus and TRACE alone. -/

namespace Sys2Proof.Machine

@[simp] theorem State.withCursor_cursor (s : State) (a : Byte) : (s.withCursor a).cursor = a := rfl
@[simp] theorem State.withCursor_ciEn (s : State) (a : Byte) : (s.withCursor a).ciEn = s.ciEn := rfl
@[simp] theorem State.withCursor_pgEn (s : State) (a : Byte) : (s.withCursor a).pgEn = s.pgEn := rfl
@[simp] theorem State.withCursor_srData (s : State) (a : Byte) : (s.withCursor a).srData = s.srData := rfl
@[simp] theorem State.withCursor_srClk (s : State) (a : Byte) : (s.withCursor a).srClk = s.srClk := rfl
@[simp] theorem State.withCursor_srLatch (s : State) (a : Byte) : (s.withCursor a).srLatch = s.srLatch := rfl
@[simp] theorem State.withCursor_shift (s : State) (a : Byte) : (s.withCursor a).shift = s.shift := rfl
@[simp] theorem State.withCursor_bus (s : State) (a : Byte) : (s.withCursor a).bus = s.bus := rfl
@[simp] theorem State.withCursor_addrStb (s : State) (a : Byte) : (s.withCursor a).addrStb = s.addrStb := rfl
@[simp] theorem State.withCursor_charStb (s : State) (a : Byte) : (s.withCursor a).charStb = s.charStb := rfl
@[simp] theorem State.withCursor_clr (s : State) (a : Byte) : (s.withCursor a).clr = s.clr := rfl
@[simp] theorem State.withCursor_curInd (s : State) (a : Byte) : (s.withCursor a).curInd = s.curInd := rfl
@[simp] theorem State.withCursor_pageA (s : State) (a : Byte) : (s.withCursor a).pageA = s.pageA := rfl
@[simp] theorem State.withCursor_pageB (s : State) (a : Byte) : (s.withCursor a).pageB = s.pageB := rfl
@[simp] theorem State.withCursor_busy (s : State) (a : Byte) : (s.withCursor a).busy = s.busy := rfl
@[simp] theorem State.withCursor_scBound (s : State) (a : Byte) : (s.withCursor a).scBound = s.scBound := rfl
@[simp] theorem State.withCursor_scEn (s : State) (a : Byte) : (s.withCursor a).scEn = s.scEn := rfl
@[simp] theorem State.withCursor_areaStart (s : State) (a : Byte) : (s.withCursor a).areaStart = s.areaStart := rfl
@[simp] theorem State.withCursor_areaLen (s : State) (a : Byte) : (s.withCursor a).areaLen = s.areaLen := rfl
@[simp] theorem State.withCursor_text (s : State) (a : Byte) : (s.withCursor a).text = s.text := rfl
@[simp] theorem State.withCursor_textLen (s : State) (a : Byte) : (s.withCursor a).textLen = s.textLen := rfl
@[simp] theorem State.withCursor_phase (s : State) (a : Byte) : (s.withCursor a).phase = s.phase := rfl
@[simp] theorem State.withCursor_lastTick (s : State) (a : Byte) : (s.withCursor a).lastTick = s.lastTick := rfl
@[simp] theorem State.withCursor_delay (s : State) (a : Byte) : (s.withCursor a).delay = s.delay := rfl
@[simp] theorem State.withCursor_trace (s : State) (a : Byte) : (s.withCursor a).trace = s.trace := rfl
@[simp] theorem State.withCursor_port (s : State) (a : Byte) : (s.withCursor a).port = s.port := rfl

@[simp] theorem State.withCiEn_cursor (s : State) (v : Bool) : (s.withCiEn v).cursor = s.cursor := rfl
@[simp] theorem State.withCiEn_ciEn (s : State) (v : Bool) : (s.withCiEn v).ciEn = v := rfl
@[simp] theorem State.withCiEn_pgEn (s : State) (v : Bool) : (s.withCiEn v).pgEn = s.pgEn := rfl
@[simp] theorem State.withCiEn_srData (s : State) (v : Bool) : (s.withCiEn v).srData = s.srData := rfl
@[simp] theorem State.withCiEn_srClk (s : State) (v : Bool) : (s.withCiEn v).srClk = s.srClk := rfl
@[simp] theorem State.withCiEn_srLatch (s : State) (v : Bool) : (s.withCiEn v).srLatch = s.srLatch := rfl
@[simp] theorem State.withCiEn_shift (s : State) (v : Bool) : (s.withCiEn v).shift = s.shift := rfl
@[simp] theorem State.withCiEn_bus (s : State) (v : Bool) : (s.withCiEn v).bus = s.bus := rfl
@[simp] theorem State.withCiEn_addrStb (s : State) (v : Bool) : (s.withCiEn v).addrStb = s.addrStb := rfl
@[simp] theorem State.withCiEn_charStb (s : State) (v : Bool) : (s.withCiEn v).charStb = s.charStb := rfl
@[simp] theorem State.withCiEn_clr (s : State) (v : Bool) : (s.withCiEn v).clr = s.clr := rfl
@[simp] theorem State.withCiEn_curInd (s : State) (v : Bool) : (s.withCiEn v).curInd = s.curInd := rfl
@[simp] theorem State.withCiEn_pageA (s : State) (v : Bool) : (s.withCiEn v).pageA = s.pageA := rfl
@[simp] theorem State.withCiEn_pageB (s : State) (v : Bool) : (s.withCiEn v).pageB = s.pageB := rfl
@[simp] theorem State.withCiEn_busy (s : State) (v : Bool) : (s.withCiEn v).busy = s.busy := rfl
@[simp] theorem State.withCiEn_scBound (s : State) (v : Bool) : (s.withCiEn v).scBound = s.scBound := rfl
@[simp] theorem State.withCiEn_scEn (s : State) (v : Bool) : (s.withCiEn v).scEn = s.scEn := rfl
@[simp] theorem State.withCiEn_areaStart (s : State) (v : Bool) : (s.withCiEn v).areaStart = s.areaStart := rfl
@[simp] theorem State.withCiEn_areaLen (s : State) (v : Bool) : (s.withCiEn v).areaLen = s.areaLen := rfl
@[simp] theorem State.withCiEn_text (s : State) (v : Bool) : (s.withCiEn v).text = s.text := rfl
@[simp] theorem State.withCiEn_textLen (s : State) (v : Bool) : (s.withCiEn v).textLen = s.textLen := rfl
@[simp] theorem State.withCiEn_phase (s : State) (v : Bool) : (s.withCiEn v).phase = s.phase := rfl
@[simp] theorem State.withCiEn_lastTick (s : State) (v : Bool) : (s.withCiEn v).lastTick = s.lastTick := rfl
@[simp] theorem State.withCiEn_delay (s : State) (v : Bool) : (s.withCiEn v).delay = s.delay := rfl
@[simp] theorem State.withCiEn_trace (s : State) (v : Bool) : (s.withCiEn v).trace = s.trace := rfl
@[simp] theorem State.withCiEn_port (s : State) (v : Bool) : (s.withCiEn v).port = s.port := rfl

@[simp] theorem State.withPgEn_cursor (s : State) (v : Bool) : (s.withPgEn v).cursor = s.cursor := rfl
@[simp] theorem State.withPgEn_ciEn (s : State) (v : Bool) : (s.withPgEn v).ciEn = s.ciEn := rfl
@[simp] theorem State.withPgEn_pgEn (s : State) (v : Bool) : (s.withPgEn v).pgEn = v := rfl
@[simp] theorem State.withPgEn_srData (s : State) (v : Bool) : (s.withPgEn v).srData = s.srData := rfl
@[simp] theorem State.withPgEn_srClk (s : State) (v : Bool) : (s.withPgEn v).srClk = s.srClk := rfl
@[simp] theorem State.withPgEn_srLatch (s : State) (v : Bool) : (s.withPgEn v).srLatch = s.srLatch := rfl
@[simp] theorem State.withPgEn_shift (s : State) (v : Bool) : (s.withPgEn v).shift = s.shift := rfl
@[simp] theorem State.withPgEn_bus (s : State) (v : Bool) : (s.withPgEn v).bus = s.bus := rfl
@[simp] theorem State.withPgEn_addrStb (s : State) (v : Bool) : (s.withPgEn v).addrStb = s.addrStb := rfl
@[simp] theorem State.withPgEn_charStb (s : State) (v : Bool) : (s.withPgEn v).charStb = s.charStb := rfl
@[simp] theorem State.withPgEn_clr (s : State) (v : Bool) : (s.withPgEn v).clr = s.clr := rfl
@[simp] theorem State.withPgEn_curInd (s : State) (v : Bool) : (s.withPgEn v).curInd = s.curInd := rfl
@[simp] theorem State.withPgEn_pageA (s : State) (v : Bool) : (s.withPgEn v).pageA = s.pageA := rfl
@[simp] theorem State.withPgEn_pageB (s : State) (v : Bool) : (s.withPgEn v).pageB = s.pageB := rfl
@[simp] theorem State.withPgEn_busy (s : State) (v : Bool) : (s.withPgEn v).busy = s.busy := rfl
@[simp] theorem State.withPgEn_scBound (s : State) (v : Bool) : (s.withPgEn v).scBound = s.scBound := rfl
@[simp] theorem State.withPgEn_scEn (s : State) (v : Bool) : (s.withPgEn v).scEn = s.scEn := rfl
@[simp] theorem State.withPgEn_areaStart (s : State) (v : Bool) : (s.withPgEn v).areaStart = s.areaStart := rfl
@[simp] theorem State.withPgEn_areaLen (s : State) (v : Bool) : (s.withPgEn v).areaLen = s.areaLen := rfl
@[simp] theorem State.withPgEn_text (s : State) (v : Bool) : (s.withPgEn v).text = s.text := rfl
@[simp] theorem State.withPgEn_textLen (s : State) (v : Bool) : (s.withPgEn v).textLen = s.textLen := rfl
@[simp] theorem State.withPgEn_phase (s : State) (v : Bool) : (s.withPgEn v).phase = s.phase := rfl
@[simp] theorem State.withPgEn_lastTick (s : State) (v : Bool) : (s.withPgEn v).lastTick = s.lastTick := rfl
@[simp] theorem State.withPgEn_delay (s : State) (v : Bool) : (s.withPgEn v).delay = s.delay := rfl
@[simp] theorem State.withPgEn_trace (s : State) (v : Bool) : (s.withPgEn v).trace = s.trace := rfl
@[simp] theorem State.withPgEn_port (s : State) (v : Bool) : (s.withPgEn v).port = s.port := rfl

@[simp] theorem State.withScEn_cursor (s : State) (v : Bool) : (s.withScEn v).cursor = s.cursor := rfl
@[simp] theorem State.withScEn_ciEn (s : State) (v : Bool) : (s.withScEn v).ciEn = s.ciEn := rfl
@[simp] theorem State.withScEn_pgEn (s : State) (v : Bool) : (s.withScEn v).pgEn = s.pgEn := rfl
@[simp] theorem State.withScEn_srData (s : State) (v : Bool) : (s.withScEn v).srData = s.srData := rfl
@[simp] theorem State.withScEn_srClk (s : State) (v : Bool) : (s.withScEn v).srClk = s.srClk := rfl
@[simp] theorem State.withScEn_srLatch (s : State) (v : Bool) : (s.withScEn v).srLatch = s.srLatch := rfl
@[simp] theorem State.withScEn_shift (s : State) (v : Bool) : (s.withScEn v).shift = s.shift := rfl
@[simp] theorem State.withScEn_bus (s : State) (v : Bool) : (s.withScEn v).bus = s.bus := rfl
@[simp] theorem State.withScEn_addrStb (s : State) (v : Bool) : (s.withScEn v).addrStb = s.addrStb := rfl
@[simp] theorem State.withScEn_charStb (s : State) (v : Bool) : (s.withScEn v).charStb = s.charStb := rfl
@[simp] theorem State.withScEn_clr (s : State) (v : Bool) : (s.withScEn v).clr = s.clr := rfl
@[simp] theorem State.withScEn_curInd (s : State) (v : Bool) : (s.withScEn v).curInd = s.curInd := rfl
@[simp] theorem State.withScEn_pageA (s : State) (v : Bool) : (s.withScEn v).pageA = s.pageA := rfl
@[simp] theorem State.withScEn_pageB (s : State) (v : Bool) : (s.withScEn v).pageB = s.pageB := rfl
@[simp] theorem State.withScEn_busy (s : State) (v : Bool) : (s.withScEn v).busy = s.busy := rfl
@[simp] theorem State.withScEn_scBound (s : State) (v : Bool) : (s.withScEn v).scBound = s.scBound := rfl
@[simp] theorem State.withScEn_scEn (s : State) (v : Bool) : (s.withScEn v).scEn = v := rfl
@[simp] theorem State.withScEn_areaStart (s : State) (v : Bool) : (s.withScEn v).areaStart = s.areaStart := rfl
@[simp] theorem State.withScEn_areaLen (s : State) (v : Bool) : (s.withScEn v).areaLen = s.areaLen := rfl
@[simp] theorem State.withScEn_text (s : State) (v : Bool) : (s.withScEn v).text = s.text := rfl
@[simp] theorem State.withScEn_textLen (s : State) (v : Bool) : (s.withScEn v).textLen = s.textLen := rfl
@[simp] theorem State.withScEn_phase (s : State) (v : Bool) : (s.withScEn v).phase = s.phase := rfl
@[simp] theorem State.withScEn_lastTick (s : State) (v : Bool) : (s.withScEn v).lastTick = s.lastTick := rfl
@[simp] theorem State.withScEn_delay (s : State) (v : Bool) : (s.withScEn v).delay = s.delay := rfl
@[simp] theorem State.withScEn_trace (s : State) (v : Bool) : (s.withScEn v).trace = s.trace := rfl
@[simp] theorem State.withScEn_port (s : State) (v : Bool) : (s.withScEn v).port = s.port := rfl

@[simp] theorem State.withLastTick_cursor (s : State) (now : Time) : (s.withLastTick now).cursor = s.cursor := rfl
@[simp] theorem State.withLastTick_ciEn (s : State) (now : Time) : (s.withLastTick now).ciEn = s.ciEn := rfl
@[simp] theorem State.withLastTick_pgEn (s : State) (now : Time) : (s.withLastTick now).pgEn = s.pgEn := rfl
@[simp] theorem State.withLastTick_srData (s : State) (now : Time) : (s.withLastTick now).srData = s.srData := rfl
@[simp] theorem State.withLastTick_srClk (s : State) (now : Time) : (s.withLastTick now).srClk = s.srClk := rfl
@[simp] theorem State.withLastTick_srLatch (s : State) (now : Time) : (s.withLastTick now).srLatch = s.srLatch := rfl
@[simp] theorem State.withLastTick_shift (s : State) (now : Time) : (s.withLastTick now).shift = s.shift := rfl
@[simp] theorem State.withLastTick_bus (s : State) (now : Time) : (s.withLastTick now).bus = s.bus := rfl
@[simp] theorem State.withLastTick_addrStb (s : State) (now : Time) : (s.withLastTick now).addrStb = s.addrStb := rfl
@[simp] theorem State.withLastTick_charStb (s : State) (now : Time) : (s.withLastTick now).charStb = s.charStb := rfl
@[simp] theorem State.withLastTick_clr (s : State) (now : Time) : (s.withLastTick now).clr = s.clr := rfl
@[simp] theorem State.withLastTick_curInd (s : State) (now : Time) : (s.withLastTick now).curInd = s.curInd := rfl
@[simp] theorem State.withLastTick_pageA (s : State) (now : Time) : (s.withLastTick now).pageA = s.pageA := rfl
@[simp] theorem State.withLastTick_pageB (s : State) (now : Time) : (s.withLastTick now).pageB = s.pageB := rfl
@[simp] theorem State.withLastTick_busy (s : State) (now : Time) : (s.withLastTick now).busy = s.busy := rfl
@[simp] theorem State.withLastTick_scBound (s : State) (now : Time) : (s.withLastTick now).scBound = s.scBound := rfl
@[simp] theorem State.withLastTick_scEn (s : State) (now : Time) : (s.withLastTick now).scEn = s.scEn := rfl
@[simp] theorem State.withLastTick_areaStart (s : State) (now : Time) : (s.withLastTick now).areaStart = s.areaStart := rfl
@[simp] theorem State.withLastTick_areaLen (s : State) (now : Time) : (s.withLastTick now).areaLen = s.areaLen := rfl
@[simp] theorem State.withLastTick_text (s : State) (now : Time) : (s.withLastTick now).text = s.text := rfl
@[simp] theorem State.withLastTick_textLen (s : State) (now : Time) : (s.withLastTick now).textLen = s.textLen := rfl
@[simp] theorem State.withLastTick_phase (s : State) (now : Time) : (s.withLastTick now).phase = s.phase := rfl
@[simp] theorem State.withLastTick_lastTick (s : State) (now : Time) : (s.withLastTick now).lastTick = now := rfl
@[simp] theorem State.withLastTick_delay (s : State) (now : Time) : (s.withLastTick now).delay = s.delay := rfl
@[simp] theorem State.withLastTick_trace (s : State) (now : Time) : (s.withLastTick now).trace = s.trace := rfl
@[simp] theorem State.withLastTick_port (s : State) (now : Time) : (s.withLastTick now).port = s.port := rfl

@[simp] theorem State.withPhase_cursor (s : State) (p : BitVec 9) : (s.withPhase p).cursor = s.cursor := rfl
@[simp] theorem State.withPhase_ciEn (s : State) (p : BitVec 9) : (s.withPhase p).ciEn = s.ciEn := rfl
@[simp] theorem State.withPhase_pgEn (s : State) (p : BitVec 9) : (s.withPhase p).pgEn = s.pgEn := rfl
@[simp] theorem State.withPhase_srData (s : State) (p : BitVec 9) : (s.withPhase p).srData = s.srData := rfl
@[simp] theorem State.withPhase_srClk (s : State) (p : BitVec 9) : (s.withPhase p).srClk = s.srClk := rfl
@[simp] theorem State.withPhase_srLatch (s : State) (p : BitVec 9) : (s.withPhase p).srLatch = s.srLatch := rfl
@[simp] theorem State.withPhase_shift (s : State) (p : BitVec 9) : (s.withPhase p).shift = s.shift := rfl
@[simp] theorem State.withPhase_bus (s : State) (p : BitVec 9) : (s.withPhase p).bus = s.bus := rfl
@[simp] theorem State.withPhase_addrStb (s : State) (p : BitVec 9) : (s.withPhase p).addrStb = s.addrStb := rfl
@[simp] theorem State.withPhase_charStb (s : State) (p : BitVec 9) : (s.withPhase p).charStb = s.charStb := rfl
@[simp] theorem State.withPhase_clr (s : State) (p : BitVec 9) : (s.withPhase p).clr = s.clr := rfl
@[simp] theorem State.withPhase_curInd (s : State) (p : BitVec 9) : (s.withPhase p).curInd = s.curInd := rfl
@[simp] theorem State.withPhase_pageA (s : State) (p : BitVec 9) : (s.withPhase p).pageA = s.pageA := rfl
@[simp] theorem State.withPhase_pageB (s : State) (p : BitVec 9) : (s.withPhase p).pageB = s.pageB := rfl
@[simp] theorem State.withPhase_busy (s : State) (p : BitVec 9) : (s.withPhase p).busy = s.busy := rfl
@[simp] theorem State.withPhase_scBound (s : State) (p : BitVec 9) : (s.withPhase p).scBound = s.scBound := rfl
@[simp] theorem State.withPhase_scEn (s : State) (p : BitVec 9) : (s.withPhase p).scEn = s.scEn := rfl
@[simp] theorem State.withPhase_areaStart (s : State) (p : BitVec 9) : (s.withPhase p).areaStart = s.areaStart := rfl
@[simp] theorem State.withPhase_areaLen (s : State) (p : BitVec 9) : (s.withPhase p).areaLen = s.areaLen := rfl
@[simp] theorem State.withPhase_text (s : State) (p : BitVec 9) : (s.withPhase p).text = s.text := rfl
@[simp] theorem State.withPhase_textLen (s : State) (p : BitVec 9) : (s.withPhase p).textLen = s.textLen := rfl
@[simp] theorem State.withPhase_phase (s : State) (p : BitVec 9) : (s.withPhase p).phase = p := rfl
@[simp] theorem State.withPhase_lastTick (s : State) (p : BitVec 9) : (s.withPhase p).lastTick = s.lastTick := rfl
@[simp] theorem State.withPhase_delay (s : State) (p : BitVec 9) : (s.withPhase p).delay = s.delay := rfl
@[simp] theorem State.withPhase_trace (s : State) (p : BitVec 9) : (s.withPhase p).trace = s.trace := rfl
@[simp] theorem State.withPhase_port (s : State) (p : BitVec 9) : (s.withPhase p).port = s.port := rfl

@[simp] theorem State.withWindow_cursor (s : State) (start len : Byte) : (s.withWindow start len).cursor = s.cursor := rfl
@[simp] theorem State.withWindow_ciEn (s : State) (start len : Byte) : (s.withWindow start len).ciEn = s.ciEn := rfl
@[simp] theorem State.withWindow_pgEn (s : State) (start len : Byte) : (s.withWindow start len).pgEn = s.pgEn := rfl
@[simp] theorem State.withWindow_srData (s : State) (start len : Byte) : (s.withWindow start len).srData = s.srData := rfl
@[simp] theorem State.withWindow_srClk (s : State) (start len : Byte) : (s.withWindow start len).srClk = s.srClk := rfl
@[simp] theorem State.withWindow_srLatch (s : State) (start len : Byte) : (s.withWindow start len).srLatch = s.srLatch := rfl
@[simp] theorem State.withWindow_shift (s : State) (start len : Byte) : (s.withWindow start len).shift = s.shift := rfl
@[simp] theorem State.withWindow_bus (s : State) (start len : Byte) : (s.withWindow start len).bus = s.bus := rfl
@[simp] theorem State.withWindow_addrStb (s : State) (start len : Byte) : (s.withWindow start len).addrStb = s.addrStb := rfl
@[simp] theorem State.withWindow_charStb (s : State) (start len : Byte) : (s.withWindow start len).charStb = s.charStb := rfl
@[simp] theorem State.withWindow_clr (s : State) (start len : Byte) : (s.withWindow start len).clr = s.clr := rfl
@[simp] theorem State.withWindow_curInd (s : State) (start len : Byte) : (s.withWindow start len).curInd = s.curInd := rfl
@[simp] theorem State.withWindow_pageA (s : State) (start len : Byte) : (s.withWindow start len).pageA = s.pageA := rfl
@[simp] theorem State.withWindow_pageB (s : State) (start len : Byte) : (s.withWindow start len).pageB = s.pageB := rfl
@[simp] theorem State.withWindow_busy (s : State) (start len : Byte) : (s.withWindow start len).busy = s.busy := rfl
@[simp] theorem State.withWindow_scBound (s : State) (start len : Byte) : (s.withWindow start len).scBound = s.scBound := rfl
@[simp] theorem State.withWindow_scEn (s : State) (start len : Byte) : (s.withWindow start len).scEn = s.scEn := rfl
@[simp] theorem State.withWindow_areaStart (s : State) (start len : Byte) : (s.withWindow start len).areaStart = start := rfl
@[simp] theorem State.withWindow_areaLen (s : State) (start len : Byte) : (s.withWindow start len).areaLen = len := rfl
@[simp] theorem State.withWindow_text (s : State) (start len : Byte) : (s.withWindow start len).text = s.text := rfl
@[simp] theorem State.withWindow_textLen (s : State) (start len : Byte) : (s.withWindow start len).textLen = s.textLen := rfl
@[simp] theorem State.withWindow_phase (s : State) (start len : Byte) : (s.withWindow start len).phase = s.phase := rfl
@[simp] theorem State.withWindow_lastTick (s : State) (start len : Byte) : (s.withWindow start len).lastTick = s.lastTick := rfl
@[simp] theorem State.withWindow_delay (s : State) (start len : Byte) : (s.withWindow start len).delay = s.delay := rfl
@[simp] theorem State.withWindow_trace (s : State) (start len : Byte) : (s.withWindow start len).trace = s.trace := rfl
@[simp] theorem State.withWindow_port (s : State) (start len : Byte) : (s.withWindow start len).port = s.port := rfl

@[simp] theorem State.withText_cursor (s : State) (text : List Byte) : (s.withText text).cursor = s.cursor := rfl
@[simp] theorem State.withText_ciEn (s : State) (text : List Byte) : (s.withText text).ciEn = s.ciEn := rfl
@[simp] theorem State.withText_pgEn (s : State) (text : List Byte) : (s.withText text).pgEn = s.pgEn := rfl
@[simp] theorem State.withText_srData (s : State) (text : List Byte) : (s.withText text).srData = s.srData := rfl
@[simp] theorem State.withText_srClk (s : State) (text : List Byte) : (s.withText text).srClk = s.srClk := rfl
@[simp] theorem State.withText_srLatch (s : State) (text : List Byte) : (s.withText text).srLatch = s.srLatch := rfl
@[simp] theorem State.withText_shift (s : State) (text : List Byte) : (s.withText text).shift = s.shift := rfl
@[simp] theorem State.withText_bus (s : State) (text : List Byte) : (s.withText text).bus = s.bus := rfl
@[simp] theorem State.withText_addrStb (s : State) (text : List Byte) : (s.withText text).addrStb = s.addrStb := rfl
@[simp] theorem State.withText_charStb (s : State) (text : List Byte) : (s.withText text).charStb = s.charStb := rfl
@[simp] theorem State.withText_clr (s : State) (text : List Byte) : (s.withText text).clr = s.clr := rfl
@[simp] theorem State.withText_curInd (s : State) (text : List Byte) : (s.withText text).curInd = s.curInd := rfl
@[simp] theorem State.withText_pageA (s : State) (text : List Byte) : (s.withText text).pageA = s.pageA := rfl
@[simp] theorem State.withText_pageB (s : State) (text : List Byte) : (s.withText text).pageB = s.pageB := rfl
@[simp] theorem State.withText_busy (s : State) (text : List Byte) : (s.withText text).busy = s.busy := rfl
@[simp] theorem State.withText_scBound (s : State) (text : List Byte) : (s.withText text).scBound = s.scBound := rfl
@[simp] theorem State.withText_scEn (s : State) (text : List Byte) : (s.withText text).scEn = s.scEn := rfl
@[simp] theorem State.withText_areaStart (s : State) (text : List Byte) : (s.withText text).areaStart = s.areaStart := rfl
@[simp] theorem State.withText_areaLen (s : State) (text : List Byte) : (s.withText text).areaLen = s.areaLen := rfl
@[simp] theorem State.withText_text (s : State) (text : List Byte) : (s.withText text).text = text := rfl
@[simp] theorem State.withText_textLen (s : State) (text : List Byte) : (s.withText text).textLen = BitVec.ofNat 8 text.length := rfl
@[simp] theorem State.withText_phase (s : State) (text : List Byte) : (s.withText text).phase = s.phase := rfl
@[simp] theorem State.withText_lastTick (s : State) (text : List Byte) : (s.withText text).lastTick = s.lastTick := rfl
@[simp] theorem State.withText_delay (s : State) (text : List Byte) : (s.withText text).delay = s.delay := rfl
@[simp] theorem State.withText_trace (s : State) (text : List Byte) : (s.withText text).trace = s.trace := rfl
@[simp] theorem State.withText_port (s : State) (text : List Byte) : (s.withText text).port = s.port := rfl

@[simp] theorem State.bound_cursor (s : State) (delay : Time) : (s.bound delay).cursor = s.cursor := rfl
@[simp] theorem State.bound_ciEn (s : State) (delay : Time) : (s.bound delay).ciEn = s.ciEn := rfl
@[simp] theorem State.bound_pgEn (s : State) (delay : Time) : (s.bound delay).pgEn = s.pgEn := rfl
@[simp] theorem State.bound_srData (s : State) (delay : Time) : (s.bound delay).srData = s.srData := rfl
@[simp] theorem State.bound_srClk (s : State) (delay : Time) : (s.bound delay).srClk = s.srClk := rfl
@[simp] theorem State.bound_srLatch (s : State) (delay : Time) : (s.bound delay).srLatch = s.srLatch := rfl
@[simp] theorem State.bound_shift (s : State) (delay : Time) : (s.bound delay).shift = s.shift := rfl
@[simp] theorem State.bound_bus (s : State) (delay : Time) : (s.bound delay).bus = s.bus := rfl
@[simp] theorem State.bound_addrStb (s : State) (delay : Time) : (s.bound delay).addrStb = s.addrStb := rfl
@[simp] theorem State.bound_charStb (s : State) (delay : Time) : (s.bound delay).charStb = s.charStb := rfl
@[simp] theorem State.bound_clr (s : State) (delay : Time) : (s.bound delay).clr = s.clr := rfl
@[simp] theorem State.bound_curInd (s : State) (delay : Time) : (s.bound delay).curInd = s.curInd := rfl
@[simp] theorem State.bound_pageA (s : State) (delay : Time) : (s.bound delay).pageA = s.pageA := rfl
@[simp] theorem State.bound_pageB (s : State) (delay : Time) : (s.bound delay).pageB = s.pageB := rfl
@[simp] theorem State.bound_busy (s : State) (delay : Time) : (s.bound delay).busy = s.busy := rfl
@[simp] theorem State.bound_scBound (s : State) (delay : Time) : (s.bound delay).scBound = true := rfl
@[simp] theorem State.bound_scEn (s : State) (delay : Time) : (s.bound delay).scEn = s.scEn := rfl
@[simp] theorem State.bound_areaStart (s : State) (delay : Time) : (s.bound delay).areaStart = s.areaStart := rfl
@[simp] theorem State.bound_areaLen (s : State) (delay : Time) : (s.bound delay).areaLen = s.areaLen := rfl
@[simp] theorem State.bound_text (s : State) (delay : Time) : (s.bound delay).text = s.text := rfl
@[simp] theorem State.bound_textLen (s : State) (delay : Time) : (s.bound delay).textLen = s.textLen := rfl
@[simp] theorem State.bound_phase (s : State) (delay : Time) : (s.bound delay).phase = s.phase := rfl
@[simp] theorem State.bound_lastTick (s : State) (delay : Time) : (s.bound delay).lastTick = s.lastTick := rfl
@[simp] theorem State.bound_delay (s : State) (delay : Time) : (s.bound delay).delay = delay := rfl
@[simp] theorem State.bound_trace (s : State) (delay : Time) : (s.bound delay).trace = s.trace := rfl
@[simp] theorem State.bound_port (s : State) (delay : Time) : (s.bound delay).port = s.port := rfl

@[simp] theorem State.emit_cursor (s : State) (e : Event) : (s.emit e).cursor = s.cursor := by
  cases e with
  | drive x v => cases x <;> rfl
  | _ => rfl

@[simp] theorem State.emit_ciEn (s : State) (e : Event) : (s.emit e).ciEn = s.ciEn := by
  cases e with
  | drive x v => cases x <;> rfl
  | _ => rfl

@[simp] theorem State.emit_pgEn (s : State) (e : Event) : (s.emit e).pgEn = s.pgEn := by
  cases e with
  | drive x v => cases x <;> rfl
  | _ => rfl

@[simp] theorem State.emit_busy (s : State) (e : Event) : (s.emit e).busy = s.busy := by
  cases e with
  | drive x v => cases x <;> rfl
  | _ => rfl

@[simp] theorem State.emit_scBound (s : State) (e : Event) : (s.emit e).scBound = s.scBound := by
  cases e with
  | drive x v => cases x <;> rfl
  | _ => rfl

@[simp] theorem State.emit_scEn (s : State) (e : Event) : (s.emit e).scEn = s.scEn := by
  cases e with
  | drive x v => cases x <;> rfl
  | _ => rfl

@[simp] theorem State.emit_areaStart (s : State) (e : Event) : (s.emit e).areaStart = s.areaStart := by
  cases e with
  | drive x v => cases x <;> rfl
  | _ => rfl

@[simp] theorem State.emit_areaLen (s : State) (e : Event) : (s.emit e).areaLen = s.areaLen := by
  cases e with
  | drive x v => cases x <;> rfl
  | _ => rfl

@[simp] theorem State.emit_text (s : State) (e : Event) : (s.emit e).text = s.text := by
  cases e with
  | drive x v => cases x <;> rfl
  | _ => rfl

@[simp] theorem State.emit_textLen (s : State) (e : Event) : (s.emit e).textLen = s.textLen := by
  cases e with
  | drive x v => cases x <;> rfl
  | _ => rfl

@[simp] theorem State.emit_phase (s : State) (e : Event) : (s.emit e).phase = s.phase := by
  cases e with
  | drive x v => cases x <;> rfl
  | _ => rfl

@[simp] theorem State.emit_lastTick (s : State) (e : Event) : (s.emit e).lastTick = s.lastTick := by
  cases e with
  | drive x v => cases x <;> rfl
  | _ => rfl

@[simp] theorem State.emit_delay (s : State) (e : Event) : (s.emit e).delay = s.delay := by
  cases e with
  | drive x v => cases x <;> rfl
  | _ => rfl

@[simp] theorem State.emit_port (s : State) (e : Event) : (s.emit e).port = s.port := by
  cases e with
  | drive x v => cases x <;> rfl
  | _ => rfl

@[simp] theorem State.emit_trace (s : State) (e : Event) : (s.emit e).trace = s.trace ++ [e] := rfl

@[simp] theorem State.emitAll_nil (s : State) : s.emitAll [] = s := rfl

@[simp] theorem State.emitAll_cons (s : State) (e : Event) (es : List Event) :
    s.emitAll (e :: es) = (s.emit e).emitAll es := rfl

theorem State.emitAll_append (s : State) (es fs : List Event) :
    s.emitAll (es ++ fs) = (s.emitAll es).emitAll fs := by
  simp [State.emitAll]

@[simp] theorem State.emitAll_cursor (s : State) (es : List Event) : (s.emitAll es).cursor = s.cursor := by
  induction es generalizing s with
  | nil => rfl
  | cons e es ih => simp [ih]

@[simp] theorem State.emitAll_ciEn (s : State) (es : List Event) : (s.emitAll es).ciEn = s.ciEn := by
  induction es generalizing s with
  | nil => rfl
  | cons e es ih => simp [ih]

@[simp] theorem State.emitAll_pgEn (s : State) (es : List Event) : (s.emitAll es).pgEn = s.pgEn := by
  induction es generalizing s with
  | nil => rfl
  | cons e es ih => simp [ih]

@[simp] theorem State.emitAll_busy (s : State) (es : List Event) : (s.emitAll es).busy = s.busy := by
  induction es generalizing s with
  | nil => rfl
  | cons e es ih => simp [ih]

@[simp] theorem State.emitAll_scBound (s : State) (es : List Event) : (s.emitAll es).scBound = s.scBound := by
  induction es generalizing s with
  | nil => rfl
  | cons e es ih => simp [ih]

@[simp] theorem State.emitAll_scEn (s : State) (es : List Event) : (s.emitAll es).scEn = s.scEn := by
  induction es generalizing s with
  | nil => rfl
  | cons e es ih => simp [ih]

@[simp] theorem State.emitAll_areaStart (s : State) (es : List Event) : (s.emitAll es).areaStart = s.areaStart := by
  induction es generalizing s with
  | nil => rfl
  | cons e es ih => simp [ih]

@[simp] theorem State.emitAll_areaLen (s : State) (es : List Event) : (s.emitAll es).areaLen = s.areaLen := by
  induction es generalizing s with
  | nil => rfl
  | cons e es ih => simp [ih]

@[simp] theorem State.emitAll_text (s : State) (es : List Event) : (s.emitAll es).text = s.text := by
  induction es generalizing s with
  | nil => rfl
  | cons e es ih => simp [ih]

@[simp] theorem State.emitAll_textLen (s : State) (es : List Event) : (s.emitAll es).textLen = s.textLen := by
  induction es generalizing s with
  | nil => rfl
  | cons e es ih => simp [ih]

@[simp] theorem State.emitAll_phase (s : State) (es : List Event) : (s.emitAll es).phase = s.phase := by
  induction es generalizing s with
  | nil => rfl
  | cons e es ih => simp [ih]

@[simp] theorem State.emitAll_lastTick (s : State) (es : List Event) : (s.emitAll es).lastTick = s.lastTick := by
  induction es generalizing s with
  | nil => rfl
  | cons e es ih => simp [ih]

@[simp] theorem State.emitAll_delay (s : State) (es : List Event) : (s.emitAll es).delay = s.delay := by
  induction es generalizing s with
  | nil => rfl
  | cons e es ih => simp [ih]

@[simp] theorem State.emitAll_port (s : State) (es : List Event) : (s.emitAll es).port = s.port := by
  induction es generalizing s with
  | nil => rfl
  | cons e es ih => simp [ih]

@[simp] theorem State.emitAll_trace (s : State) (es : List Event) : (s.emitAll es).trace = s.trace ++ es := by
  induction es generalizing s with
  | nil => simp
  | cons e es ih => simp [ih]

theorem State.emit_withCursor (s : State) (e : Event) (a : Byte) : (s.withCursor a).emit e = (s.emit e).withCursor a := by
  cases e with
  | drive x v => cases x <;> rfl
  | _ => rfl

/-- Emitting does not read the register, so the two commute. -/
theorem State.emitAll_withCursor (s : State) (es : List Event) (a : Byte) :
    (s.withCursor a).emitAll es = (s.emitAll es).withCursor a := by
  induction es generalizing s with
  | nil => rfl
  | cons e es ih => simp [State.emit_withCursor, ih]

theorem State.emit_withCiEn (s : State) (e : Event) (v : Bool) : (s.withCiEn v).emit e = (s.emit e).withCiEn v := by
  cases e with
  | drive x v => cases x <;> rfl
  | _ => rfl

/-- Emitting does not read the register, so the two commute. -/
theorem State.emitAll_withCiEn (s : State) (es : List Event) (v : Bool) :
    (s.withCiEn v).emitAll es = (s.emitAll es).withCiEn v := by
  induction es generalizing s with
  | nil => rfl
  | cons e es ih => simp [State.emit_withCiEn, ih]

theorem State.emit_withPgEn (s : State) (e : Event) (v : Bool) : (s.withPgEn v).emit e = (s.emit e).withPgEn v := by
  cases e with
  | drive x v => cases x <;> rfl
  | _ => rfl

/-- Emitting does not read the register, so the two commute. -/
theorem State.emitAll_withPgEn (s : State) (es : List Event) (v : Bool) :
    (s.withPgEn v).emitAll es = (s.emitAll es).withPgEn v := by
  induction es generalizing s with
  | nil => rfl
  | cons e es ih => simp [State.emit_withPgEn, ih]

theorem State.emit_withScEn (s : State) (e : Event) (v : Bool) : (s.withScEn v).emit e = (s.emit e).withScEn v := by
  cases e with
  | drive x v => cases x <;> rfl
  | _ => rfl

/-- Emitting does not read the register, so the two commute. -/
theorem State.emitAll_withScEn (s : State) (es : List Event) (v : Bool) :
    (s.withScEn v).emitAll es = (s.emitAll es).withScEn v := by
  induction es generalizing s with
  | nil => rfl
  | cons e es ih => simp [State.emit_withScEn, ih]

theorem State.emit_withLastTick (s : State) (e : Event) (now : Time) : (s.withLastTick now).emit e = (s.emit e).withLastTick now := by
  cases e with
  | drive x v => cases x <;> rfl
  | _ => rfl

/-- Emitting does not read the register, so the two commute. -/
theorem State.emitAll_withLastTick (s : State) (es : List Event) (now : Time) :
    (s.withLastTick now).emitAll es = (s.emitAll es).withLastTick now := by
  induction es generalizing s with
  | nil => rfl
  | cons e es ih => simp [State.emit_withLastTick, ih]

theorem State.emit_withPhase (s : State) (e : Event) (p : BitVec 9) : (s.withPhase p).emit e = (s.emit e).withPhase p := by
  cases e with
  | drive x v => cases x <;> rfl
  | _ => rfl

/-- Emitting does not read the register, so the two commute. -/
theorem State.emitAll_withPhase (s : State) (es : List Event) (p : BitVec 9) :
    (s.withPhase p).emitAll es = (s.emitAll es).withPhase p := by
  induction es generalizing s with
  | nil => rfl
  | cons e es ih => simp [State.emit_withPhase, ih]

theorem State.emit_withWindow (s : State) (e : Event) (start len : Byte) : (s.withWindow start len).emit e = (s.emit e).withWindow start len := by
  cases e with
  | drive x v => cases x <;> rfl
  | _ => rfl

/-- Emitting does not read the register, so the two commute. -/
theorem State.emitAll_withWindow (s : State) (es : List Event) (start len : Byte) :
    (s.withWindow start len).emitAll es = (s.emitAll es).withWindow start len := by
  induction es generalizing s with
  | nil => rfl
  | cons e es ih => simp [State.emit_withWindow, ih]

theorem State.emit_withText (s : State) (e : Event) (text : List Byte) : (s.withText text).emit e = (s.emit e).withText text := by
  cases e with
  | drive x v => cases x <;> rfl
  | _ => rfl

/-- Emitting does not read the register, so the two commute. -/
theorem State.emitAll_withText (s : State) (es : List Event) (text : List Byte) :
    (s.withText text).emitAll es = (s.emitAll es).withText text := by
  induction es generalizing s with
  | nil => rfl
  | cons e es ih => simp [State.emit_withText, ih]

theorem State.emit_bound (s : State) (e : Event) (delay : Time) : (s.bound delay).emit e = (s.emit e).bound delay := by
  cases e with
  | drive x v => cases x <;> rfl
  | _ => rfl

/-- Emitting does not read the register, so the two commute. -/
theorem State.emitAll_bound (s : State) (es : List Event) (delay : Time) :
    (s.bound delay).emitAll es = (s.emitAll es).bound delay := by
  induction es generalizing s with
  | nil => rfl
  | cons e es ih => simp [State.emit_bound, ih]

@[simp] theorem State.withCursor_self (s : State) : s.withCursor s.cursor = s := rfl

@[simp] theorem State.withCursor_withCursor (s : State) (a b : Byte) : (s.withCursor a).withCursor b = s.withCursor b := rfl

@[simp] theorem State.withScEn_withScEn (s : State) (v w : Bool) : (s.withScEn v).withScEn w = s.withScEn w := rfl

@[simp] theorem State.withPhase_withPhase (s : State) (p q : BitVec 9) : (s.withPhase p).withPhase q = s.withPhase q := rfl

end Sys2Proof.Machine
end

