-- ==== Sys2Proof/Laws/Ops.lean ====
section
/-! SUPPORT. For each shared procedure, everything it does: the events it emits and the registers it writes. Callers cite
these and never unfold the procedure. -/

namespace Sys2Proof.Machine

theorem addrSet_eq (a : Byte) (s : State) : addrSet a s = (s.emitAll (addrWriteEvents a)).withCursor a :=
  State.emitAll_withCursor _ _ _

theorem setCursor_eq (col row : Int) (s : State) :
    setCursor col row s = (s.emitAll (addrWriteEvents (cellAt col row))).withCursor (cellAt col row) :=
  addrSet_eq _ _

theorem writeChar_eq (ch : Nat) (s : State) : writeChar ch s = s.emitAll (charWriteEvents (enc (clampCh ch))) := rfl

/-- Two lists of events emitted on either side of a cursor write. -/
theorem emitAll_withCursor_emitAll (s : State) (es fs : List Event) (a : Byte) :
    ((s.emitAll es).withCursor a).emitAll fs = (s.emitAll (es ++ fs)).withCursor a := by
  rw [State.emitAll_withCursor, State.emitAll_append]

theorem writeCharAt_eq (col row : Int) (ch : Nat) (s : State) :
    writeCharAt col row ch s =
      (s.emitAll (addrWriteEvents (cellAt col row) ++ charWriteEvents (enc (clampCh ch)))).withCursor
        (cellAt col row) := by
  rw [writeCharAt, writeChar_eq, setCursor_eq, emitAll_withCursor_emitAll]

theorem writeBlockAt_eq (col row : Int) (s : State) :
    writeBlockAt col row s =
      (s.emitAll (addrWriteEvents (cellAt col row) ++ charWriteEvents 0x00)).withCursor (cellAt col row) := by
  rw [writeBlockAt, charWrite, setCursor_eq, emitAll_withCursor_emitAll]; rfl

/-- One text character (R125). -/
theorem textPut_eq (p : Params) (s : State) (ch : Byte) :
    textPut p s ch =
      (s.emitAll (charWriteEvents (enc (disp ch.toNat)) ++
        if p.textAddrAfterEach then addrWriteEvents (nextCell s.cursor) else [])).withCursor (nextCell s.cursor) := by
  unfold textPut charWrite addrWrite
  simp only [State.emitAll_cursor]
  split
  · rw [emitAll_withCursor_emitAll]
  · simp

theorem textEvents_nil (r : Bool) (a : Nat) : textEvents r a [] = [] := rfl

/-- The events of a text run, first character apart. -/
theorem textEvents_cons (r : Bool) (a : Nat) (b : Byte) (text : List Byte) :
    textEvents r a (b :: text) =
      (charWriteEvents (BitVec.ofNat 8 (127 - disp b.toNat)) ++
        if r then addrWriteEvents (BitVec.ofNat 8 ((a + 1) % 160)) else []) ++ textEvents r ((a + 1) % 160) text := by
  simp only [textEvents, List.length_cons, List.range_succ_eq_map, List.flatMap_cons, List.flatMap_map]
  congr 1
  apply List.flatMap_congr
  intro i _
  have : (a + (i + 1) + 1) % 160 = ((a + 1) % 160 + i + 1) % 160 := by omega
  simp [this]

/-- A text run from a cell (R124, R125). -/
theorem textRun_eq (p : Params) (text : List Byte) (s : State) (h : s.cursor.toNat < 160) :
    textRun p text s =
      (s.emitAll (textEvents p.textAddrAfterEach s.cursor.toNat text)).withCursor
        (BitVec.ofNat 8 ((s.cursor.toNat + text.length) % 160)) := by
  induction text generalizing s with
  | nil =>
    have : BitVec.ofNat 8 (s.cursor.toNat % 160) = s.cursor := by
      rw [Nat.mod_eq_of_lt h]; simp
    simp [textRun, textEvents_nil, this]
  | cons b text ih =>
    have hb := disp_bounds b.toNat
    have hc : (textPut p s b).cursor = nextCell s.cursor := by rw [textPut_eq]; rfl
    have hn := nextCell_toNat s.cursor h
    show textRun p text (textPut p s b) = _
    rw [ih _ (by rw [hc]; exact nextCell_lt _ h), hc, hn, textPut_eq, emitAll_withCursor_emitAll,
      textEvents_cons, enc_eq _ (by omega), nextCell_eq _ h]
    have : ((s.cursor.toNat + 1) % 160 + text.length) % 160 = (s.cursor.toNat + (text.length + 1)) % 160 := by omega
    simp [this]

/-- A positioned text run. -/
theorem textRun_addrSet (p : Params) (text : List Byte) (a : Nat) (s : State) (h : a < 160) :
    textRun p text (addrSet (BitVec.ofNat 8 a) s) =
      (s.emitAll (positionedTextEvents p.textAddrAfterEach a text)).withCursor
        (BitVec.ofNat 8 ((a + text.length) % 160)) := by
  have ha : (BitVec.ofNat 8 a).toNat = a := by rw [BitVec.toNat_ofNat]; omega
  rw [addrSet_eq, textRun_eq _ _ _ (by simp only [State.withCursor_cursor, ha]; exact h), emitAll_withCursor_emitAll]
  simp only [State.withCursor_cursor, ha, State.withCursor_withCursor]; rfl

/-- `ClearWindow` on a window that starts in the grid (R179). -/
theorem clearWindow_eq (p : Params) (s : State) (h : s.areaStart.toNat < 160) :
    clearWindow p s =
      (s.emitAll (windowClearEvents p.textAddrAfterEach s.areaStart.toNat s.areaLen.toNat)).withCursor
        (BitVec.ofNat 8 ((s.areaStart.toNat + s.areaLen.toNat) % 160)) := by
  have := textRun_addrSet p (List.replicate s.areaLen.toNat 32) s.areaStart.toNat s h
  simpa [clearWindow, windowClearEvents] using this

/-- The characters `Render` writes are the slice of R174. -/
theorem map_getD_range (text : List Byte) (first count : Nat) (h : first + count ≤ text.length) :
    ((List.range count).map fun j => text.getD (first + j) 0) = (text.drop first).take count := by
  apply List.ext_getElem
  · simp; omega
  · intro i h1 h2
    simp at h1 h2
    simp [List.getD_eq_getElem?_getD, List.getElem?_eq_getElem (show first + i < text.length by omega)]

theorem renderSlice_length (p w : Nat) (text : List Byte) :
    (renderSlice p w text).length = (renderPlan p text.length w 0).count := by
  unfold renderSlice renderPlan; split
  · simp
  · simp; omega

/-- `Render` in a legal window (R180). -/
theorem render_eq (p : Params) (s : State)
    (hs : s.areaStart.toNat + s.areaLen.toNat ≤ 160) (hl : s.text.length = s.textLen.toNat)
    (hp : s.phase.toNat ≤ s.areaLen.toNat + s.textLen.toNat) :
    render p s =
      (s.emitAll (renderEvents p.textAddrAfterEach s.phase.toNat s.areaLen.toNat s.areaStart.toNat s.text)).withCursor
        (if renderSlice s.phase.toNat s.areaLen.toNat s.text = [] then s.cursor
         else BitVec.ofNat 8 ((renderStart s.phase.toNat s.areaStart.toNat s.text +
           (renderSlice s.phase.toNat s.areaLen.toNat s.text).length) % 160)) := by
  have hlen := renderSlice_length s.phase.toNat s.areaLen.toNat s.text
  have hb := renderPlan_bounds s.phase.toNat s.textLen.toNat s.areaLen.toNat s.areaStart.toNat hp
  have hcount : (renderPlan s.phase.toNat s.textLen.toNat s.areaLen.toNat s.areaStart.toNat).count =
      (renderSlice s.phase.toNat s.areaLen.toNat s.text).length := by
    rw [hlen, hl]; unfold renderPlan; split <;> rfl
  have hstart : (renderPlan s.phase.toNat s.textLen.toNat s.areaLen.toNat s.areaStart.toNat).pos =
      renderStart s.phase.toNat s.areaStart.toNat s.text := by
    unfold renderPlan renderStart; rw [hl]; split <;> rfl
  have hslice : ((List.range (renderPlan s.phase.toNat s.textLen.toNat s.areaLen.toNat s.areaStart.toNat).count).map
      fun j => s.text.getD
        ((renderPlan s.phase.toNat s.textLen.toNat s.areaLen.toNat s.areaStart.toNat).first + j) 0) =
      renderSlice s.phase.toNat s.areaLen.toNat s.text := by
    rw [map_getD_range _ _ _ (by rw [hl]; exact hb.1)]
    unfold renderPlan renderSlice; rw [hl]; split
    · simp only [List.drop_zero]
      rw [Nat.min_def]; split
      · rfl
      · rw [List.take_of_length_le (by omega), List.take_of_length_le (by omega)]
    · simp only
      rw [Nat.min_def]; split
      · next h1 h2 => rw [List.take_of_length_le (by simp; omega), List.take_of_length_le (by simp; omega)]
      · rfl
  unfold render
  simp only [hslice]
  rw [hcount, hstart]
  by_cases hn : renderSlice s.phase.toNat s.areaLen.toNat s.text = []
  · simp [hn, renderEvents]
  · have hpos : 0 < (renderSlice s.phase.toNat s.areaLen.toNat s.text).length := List.length_pos_iff.mpr hn
    have h160 : renderStart s.phase.toNat s.areaStart.toNat s.text < 160 := by
      rw [← hstart]; rw [← hcount] at hpos; omega
    rw [if_pos hpos, textRun_addrSet _ _ _ _ h160]
    simp [hn, renderEvents]

/-- The phase after a tick (R178). -/
def nextPhase (p top : BitVec 9) : BitVec 9 := if p = 0 then top else p - 1

/-- The top of the phase counter, as a number (R34). -/
theorem phaseTop_toNat (w l : Byte) : (phaseTop w l).toNat = w.toNat + l.toNat := by
  unfold phaseTop; rw [BitVec.toNat_ofNat]; have := w.isLt; have := l.isLt; omega

/-- The phase after a tick, as a number (R178). -/
theorem nextPhase_toNat (p : BitVec 9) (w l : Byte) :
    (nextPhase p (phaseTop w l)).toNat = if p.toNat = 0 then w.toNat + l.toNat else p.toNat - 1 := by
  unfold nextPhase
  by_cases hz : p = 0
  · subst hz; simp [phaseTop_toNat]
  · have hn : p.toNat ≠ 0 := fun h => hz (BitVec.eq_of_toNat_eq h)
    have := p.isLt
    rw [if_neg hz, if_neg hn, BitVec.toNat_sub]; simp; omega

theorem stepPhase_eq (s : State) : stepPhase s = s.withPhase (nextPhase s.phase (phaseTop s.areaLen s.textLen)) := rfl

/-- A tick in a legal window (R178 to R180). -/
theorem tick_eq (p : Params) (s : State) (h : WindowLegal s) :
    tick p s =
      ((s.emitAll (windowClearEvents p.textAddrAfterEach s.areaStart.toNat s.areaLen.toNat ++
          renderEvents p.textAddrAfterEach s.phase.toNat s.areaLen.toNat s.areaStart.toNat s.text)).withCursor
        (BitVec.ofNat 8 (tickCursor s.phase.toNat s.areaLen.toNat s.areaStart.toNat s.text))).withPhase
        (nextPhase s.phase (phaseTop s.areaLen s.textLen)) := by
  obtain ⟨hs, _, hw, hl, hp⟩ := h
  have hc := clearWindow_eq p s hs
  unfold tick
  rw [hc, render_eq p _ (by simpa [Config.nCells] using hw) (by simpa using hl) (by simpa using hp), stepPhase_eq,
    emitAll_withCursor_emitAll]
  simp only [State.withCursor_phase, State.withCursor_areaLen, State.withCursor_areaStart, State.withCursor_text,
    State.withCursor_textLen, State.withCursor_cursor, State.emitAll_phase, State.emitAll_areaLen,
    State.emitAll_areaStart, State.emitAll_text, State.emitAll_textLen, State.withCursor_withCursor]
  congr 2
  unfold tickCursor; split <;> rfl

theorem lastCell_append (c : Byte) (xs ys : List (Nat × Byte)) :
    lastCell (lastCell c xs) ys = lastCell c (xs ++ ys) := by
  unfold lastCell; rw [List.getLast?_append]
  cases ys.getLast? <;> rfl

theorem cellEvents_append (xs ys : List (Nat × Byte)) : cellEvents (xs ++ ys) = cellEvents xs ++ cellEvents ys := by
  simp [cellEvents]

/-- Draws cells: their events, and CURSOR at the last of them. -/
def drawCells (cells : List (Nat × Byte)) (s : State) : State :=
  (s.emitAll (cellEvents cells)).withCursor (lastCell s.cursor cells)

@[simp] theorem drawCells_nil (s : State) : drawCells [] s = s := rfl

theorem drawCells_append (xs ys : List (Nat × Byte)) (s : State) :
    drawCells (xs ++ ys) s = drawCells ys (drawCells xs s) := by
  unfold drawCells
  rw [emitAll_withCursor_emitAll, ← cellEvents_append]
  simp [lastCell_append]

/-- One cell of a big digit (R157, R159). -/
theorem drawGlyphCell_eq (p : Params) (d : Fin 10) (col row : Int) (s : State) (cell : Fin 5 × Fin 3) :
    drawGlyphCell p d col row s cell =
      if 0 ≤ col + cell.2.val ∧ col + cell.2.val ≤ 15 ∧ 0 ≤ row + cell.1.val ∧ row + cell.1.val ≤ 9 then
        drawCells [((16 * (row + cell.1.val) + (col + cell.2.val)).toNat,
          if p.glyph d cell.1 cell.2 then 0x00 else 0x5F)] s
      else s := by
  unfold drawGlyphCell inGrid
  simp only [decide_eq_true_eq]
  have hiff : (0 ≤ col + (cell.2.val : Int) ∧ col + cell.2.val < (Config.cols : Int) ∧ 0 ≤ row + (cell.1.val : Int) ∧
      row + cell.1.val < (Config.rows : Int)) ↔
      (0 ≤ col + (cell.2.val : Int) ∧ col + cell.2.val ≤ 15 ∧ 0 ≤ row + (cell.1.val : Int) ∧ row + cell.1.val ≤ 9) := by
    simp only [Config.cols, Config.rows]; omega
  by_cases h : 0 ≤ col + (cell.2.val : Int) ∧ col + cell.2.val ≤ 15 ∧ 0 ≤ row + (cell.1.val : Int) ∧ row + cell.1.val ≤ 9
  · rw [if_pos h, if_pos (hiff.mpr h), writeBlockAt_eq, writeCharAt_eq,
      cellAt_inGrid _ _ ⟨h.1, h.2.1⟩ ⟨h.2.2.1, h.2.2.2⟩]
    simp only [drawCells, cellEvents, lastCell, List.flatMap_cons, List.flatMap_nil, List.append_nil,
      List.getLast?_singleton]
    split <;> rfl
  · rw [if_neg h, if_neg (fun h' => h (hiff.mp h'))]

theorem foldl_drawGlyphCell (p : Params) (d : Fin 10) (col row : Int) (cells : List (Fin 5 × Fin 3)) (s : State) :
    cells.foldl (drawGlyphCell p d col row) s =
      drawCells (cells.filterMap fun cell =>
        if 0 ≤ col + (cell.2.val : Int) ∧ col + (cell.2.val : Int) ≤ 15 ∧ 0 ≤ row + (cell.1.val : Int) ∧
            row + (cell.1.val : Int) ≤ 9 then
          some ((16 * (row + (cell.1.val : Int)) + (col + (cell.2.val : Int))).toNat,
            if p.glyph d cell.1 cell.2 then 0x00 else 0x5F)
        else none) s := by
  induction cells generalizing s with
  | nil => rfl
  | cons cell cells ih =>
    rw [List.foldl_cons, ih, drawGlyphCell_eq, List.filterMap_cons]
    split
    · rw [← drawCells_append]; rfl
    · rfl

/-- A big digit (R157). -/
theorem drawDigit_eq (p : Params) (d : Fin 10) (col row : Int) (s : State) :
    drawDigit p d col row s = drawCells (digitCells p d col row) s :=
  foldl_drawGlyphCell p d col row glyphCells s

theorem foldl_drawDigit (p : Params) (col row : Int) (digits : List (Fin 10 × Nat)) (s : State) :
    digits.foldl (fun s d => drawDigit p d.1 (col + 4 * (d.2 : Int)) row s) s =
      drawCells (digits.flatMap fun d => digitCells p d.1 (col + 4 * (d.2 : Int)) row) s := by
  induction digits generalizing s with
  | nil => rfl
  | cons d digits ih => rw [List.foldl_cons, ih, drawDigit_eq, List.flatMap_cons, drawCells_append]

/-- The digits BIG_NUMBER draws, most significant first (R155). -/
def numberDigits (number : Nat) : List (Fin 10) :=
  (List.range (digitCount number)).map (digitAt number (digitCount number))

theorem numberDigits_val (number : Nat) : (numberDigits number).map Fin.val = (Nat.digits 10 number).reverse := by
  apply List.ext_getElem
  · simp [numberDigits, digitCount_eq]
  · intro i h1 h2
    have hi : i < digitCount number := by simpa [numberDigits] using h1
    simp only [numberDigits, List.getElem_map, List.getElem_range]
    rw [digitAt_val number i hi, List.getD_eq_getElem?_getD, List.getElem?_eq_getElem h2]; rfl

/-- A big number (R155). -/
theorem drawNumber_eq (p : Params) (col row : Int) (number : Nat) (s : State) :
    drawNumber p col row number s = drawCells (numberCells p col row (numberDigits number)) s := by
  unfold numberCells
  rw [← foldl_drawDigit]
  unfold drawNumber numberDigits
  dsimp only
  rw [List.zipIdx_map, List.foldl_map, List.zipIdx_eq_zip_range', List.length_range]
  have hz : ∀ n, (List.range n).zip (List.range' 0 n) = (List.range n).map fun i => (i, i) := by
    intro n; apply List.ext_getElem <;> simp
  rw [hz, List.foldl_map]
  rfl

end Sys2Proof.Machine
end

