-- ==== Sys2Proof/Laws/Exec.lean ====
section
/-! SUPPORT. What a command can do to the outputs, said once: it emits a list of protocol blocks (address writes,
character writes, the clear pulse, drives of the optional lines), and the lines, the bus and TRACE are what emitting those
events makes them. Every invariant over TRACE follows from this. -/

namespace Sys2Proof.Machine

/-- The protocol blocks of which every command's events are made (R100). -/
inductive Block where
  | addr (a : Byte)
  | char (b : Byte)
  | clear
  | indicator (v : Drive)
  | pages (a b : Drive)

/-- The events of a block. -/
def Block.events : Block → List Event
  | .addr a => addrWriteEvents a
  | .char b => charWriteEvents b
  | .clear => clearEvents
  | .indicator v => [.drive .curInd v]
  | .pages a b => [.drive .pageA a, .drive .pageB b]

/-- The events of several blocks. -/
def blockEvents (bs : List Block) : List Event := bs.flatMap Block.events

@[simp] theorem blockEvents_nil : blockEvents [] = [] := rfl

@[simp] theorem blockEvents_cons (b : Block) (bs : List Block) :
    blockEvents (b :: bs) = b.events ++ blockEvents bs := rfl

@[simp] theorem blockEvents_append (bs cs : List Block) :
    blockEvents (bs ++ cs) = blockEvents bs ++ blockEvents cs := by simp [blockEvents]

/-- `t` has the outputs of `s` after the events `es`; its other registers are free. -/
def OutputsAfter (s : State) (es : List Event) (t : State) : Prop :=
  t = { s.emitAll es with
    cursor := t.cursor, ciEn := t.ciEn, pgEn := t.pgEn, scBound := t.scBound, scEn := t.scEn
    areaStart := t.areaStart, areaLen := t.areaLen, text := t.text, textLen := t.textLen, phase := t.phase
    lastTick := t.lastTick, delay := t.delay }

theorem OutputsAfter.nil (s : State) : OutputsAfter s [] s := rfl

theorem OutputsAfter.trace {s t : State} {es : List Event} (h : OutputsAfter s es t) : t.trace = s.trace ++ es := by
  have := congrArg State.trace h; simpa using this

theorem OutputsAfter.port {s t : State} {es : List Event} (h : OutputsAfter s es t) : t.port = s.port := by
  have := congrArg State.port h; simpa using this

theorem OutputsAfter.busy {s t : State} {es : List Event} (h : OutputsAfter s es t) : t.busy = s.busy := by
  have := congrArg State.busy h; simpa using this

/-- Emitting more events. -/
theorem OutputsAfter.emitAll {s t : State} {es : List Event} (h : OutputsAfter s es t) (fs : List Event) :
    OutputsAfter s (es ++ fs) (t.emitAll fs) := by
  unfold OutputsAfter at *
  rw [State.emitAll_append]
  generalize s.emitAll es = u at *
  rw [h]
  induction fs using List.reverseRecOn with
  | nil => rfl
  | append_singleton fs e ih =>
    rw [State.emitAll_append, State.emitAll_append, ih]
    generalize u.emitAll fs = v
    simp only [State.emitAll_cons, State.emitAll_nil]
    cases e with
    | drive x v => cases x <;> rfl
    | _ => rfl

theorem OutputsAfter.withCursor {s t : State} {es : List Event} (h : OutputsAfter s es t) (a : Byte) :
    OutputsAfter s es (t.withCursor a) := by unfold OutputsAfter at *; rw [h]; rfl
theorem OutputsAfter.withCiEn {s t : State} {es : List Event} (h : OutputsAfter s es t) (v : Bool) :
    OutputsAfter s es (t.withCiEn v) := by unfold OutputsAfter at *; rw [h]; rfl
theorem OutputsAfter.withPgEn {s t : State} {es : List Event} (h : OutputsAfter s es t) (v : Bool) :
    OutputsAfter s es (t.withPgEn v) := by unfold OutputsAfter at *; rw [h]; rfl
theorem OutputsAfter.withScEn {s t : State} {es : List Event} (h : OutputsAfter s es t) (v : Bool) :
    OutputsAfter s es (t.withScEn v) := by unfold OutputsAfter at *; rw [h]; rfl
theorem OutputsAfter.withLastTick {s t : State} {es : List Event} (h : OutputsAfter s es t) (now : Time) :
    OutputsAfter s es (t.withLastTick now) := by unfold OutputsAfter at *; rw [h]; rfl
theorem OutputsAfter.withPhase {s t : State} {es : List Event} (h : OutputsAfter s es t) (p : BitVec 9) :
    OutputsAfter s es (t.withPhase p) := by unfold OutputsAfter at *; rw [h]; rfl
theorem OutputsAfter.withWindow {s t : State} {es : List Event} (h : OutputsAfter s es t) (a l : Byte) :
    OutputsAfter s es (t.withWindow a l) := by unfold OutputsAfter at *; rw [h]; rfl
theorem OutputsAfter.withText {s t : State} {es : List Event} (h : OutputsAfter s es t) (text : List Byte) :
    OutputsAfter s es (t.withText text) := by unfold OutputsAfter at *; rw [h]; rfl
theorem OutputsAfter.bound {s t : State} {es : List Event} (h : OutputsAfter s es t) (d : Time) :
    OutputsAfter s es (t.bound d) := by unfold OutputsAfter at *; rw [h]; rfl

/-- `t` comes from `s` by drawing: protocol blocks and a cursor move, and nothing else. -/
def Draws (s t : State) : Prop := ∃ (bs : List Block) (a : Byte), t = (s.emitAll (blockEvents bs)).withCursor a

theorem Draws.refl (s : State) : Draws s s := ⟨[], s.cursor, rfl⟩

theorem Draws.block {s t : State} (h : Draws s t) (b : Block) : Draws s (t.emitAll b.events) := by
  obtain ⟨bs, a, rfl⟩ := h
  exact ⟨bs ++ [b], a, by simp [State.emitAll_withCursor, State.emitAll_append]⟩

theorem Draws.withCursor {s t : State} (h : Draws s t) (a : Byte) : Draws s (t.withCursor a) := by
  obtain ⟨bs, _, rfl⟩ := h
  exact ⟨bs, a, by simp⟩

theorem Draws.addrSet {s t : State} (h : Draws s t) (a : Byte) : Draws s (addrSet a t) :=
  (h.withCursor a).block (.addr a)

theorem Draws.charWrite {s t : State} (h : Draws s t) (b : Byte) : Draws s (charWrite b t) :=
  h.block (.char b)

theorem Draws.textPut {s t : State} (h : Draws s t) (p : Params) (ch : Byte) : Draws s (textPut p t ch) := by
  unfold Machine.textPut
  dsimp only
  split
  · exact ((h.charWrite _).withCursor _).block (.addr _)
  · exact (h.charWrite _).withCursor _

theorem Draws.foldl {α : Type} {s t : State} (f : State → α → State)
    (hf : ∀ {s t : State}, Draws s t → ∀ x, Draws s (f t x)) (h : Draws s t) (xs : List α) :
    Draws s (xs.foldl f t) := by
  induction xs generalizing t with
  | nil => exact h
  | cons x xs ih => exact ih (hf h x)

theorem Draws.textRun {s t : State} (h : Draws s t) (p : Params) (text : List Byte) : Draws s (textRun p text t) :=
  Draws.foldl _ (fun h ch => h.textPut p ch) h text

theorem Draws.setCursor {s t : State} (h : Draws s t) (col row : Int) : Draws s (setCursor col row t) :=
  h.addrSet _

theorem Draws.writeCharAt {s t : State} (h : Draws s t) (col row : Int) (ch : Nat) :
    Draws s (writeCharAt col row ch t) := by
  rw [Machine.writeCharAt, writeChar_eq]
  exact (h.setCursor col row).block (.char _)

theorem Draws.writeBlockAt {s t : State} (h : Draws s t) (col row : Int) : Draws s (writeBlockAt col row t) := by
  rw [Machine.writeBlockAt]
  exact (h.setCursor col row).charWrite _

theorem Draws.drawDigit {s t : State} (h : Draws s t) (p : Params) (d : Fin 10) (col row : Int) :
    Draws s (drawDigit p d col row t) :=
  Draws.foldl _ (fun h cell => by
    unfold drawGlyphCell; dsimp only
    split
    · split
      · exact h.writeBlockAt _ _
      · exact h.writeCharAt _ _ _
    · exact h) h glyphCells

theorem Draws.drawNumber {s t : State} (h : Draws s t) (p : Params) (col row : Int) (n : Nat) :
    Draws s (drawNumber p col row n t) :=
  Draws.foldl _ (fun h _ => h.drawDigit p _ _ _) h _

theorem Draws.clearWindow {s t : State} (h : Draws s t) (p : Params) : Draws s (clearWindow p t) :=
  (h.addrSet _).textRun p _

theorem Draws.render {s t : State} (h : Draws s t) (p : Params) : Draws s (render p t) := by
  unfold Machine.render; dsimp only
  split
  · exact (h.addrSet _).textRun p _
  · exact h

/-- A tick draws, then steps the phase. -/
theorem tick_draws (p : Params) (s : State) : ∃ t, Draws s t ∧ tick p s = stepPhase t :=
  ⟨_, ((Draws.refl s).clearWindow p).render p, rfl⟩

/-- The commands that only draw: WRITE_TEXT, the positioned writes, SET_CURSOR, ADVANCE, WRITE_CHAR, CLEAR, the
big numbers, and the optional-line commands but for the two BEGINs. -/
def Instr.onlyDraws : Instr → Bool
  | .setCursor _ _ | .advance _ | .writeText _ | .writeChar _ | .writeCharAt _ _ _ | .writeBlockAt _ _
  | .clear | .ciShow | .ciHide | .pgSelect _ | .bigNumber _ _ _ | .bigDigit _ _ _ => true
  | .ciBegin | .pgBegin | .scConfig _ _ _ _ _ _ | .scUpdate _ | .scSetText _ | .scEnable | .scDisable => false

/-- A drawing command touches the outputs and CURSOR only. -/
theorem exec_draws {i : Instr} {s t : State} (hi : Instr.onlyDraws i = true) (h : exec i s = .next t) : Draws s t := by
  have r := Draws.refl s
  cases i with
  | setCursor col row => cases h; exact r.setCursor col row
  | advance n =>
    simp only [exec, execAdvance] at h
    split at h
    · cases h; exact r.addrSet _
    · cases h
  | writeText text => cases h; exact r.textRun params text
  | writeChar ch => cases h; exact r.charWrite _
  | writeCharAt col row ch => cases h; exact r.writeCharAt col row ch
  | writeBlockAt col row => cases h; exact r.writeBlockAt col row
  | clear => cases h; exact r.block .clear
  | ciShow =>
    simp only [exec, execCiShow] at h
    split at h <;> cases h
    · exact r.block (.indicator .high)
    · exact r
  | ciHide =>
    simp only [exec, execCiHide] at h
    split at h <;> cases h
    · exact r.block (.indicator .low)
    · exact r
  | pgSelect page =>
    simp only [exec, execPgSelect] at h
    split at h <;> cases h
    · exact r.block (.pages _ _)
    · exact r
  | bigNumber col row number => cases h; exact r.drawNumber params col row number
  | bigDigit col row digit =>
    simp only [exec, execBigDigit] at h
    split at h <;> cases h
    exact r.drawDigit params _ col row
  | ciBegin => cases hi
  | pgBegin => cases hi
  | scConfig _ _ _ _ _ _ => cases hi
  | scUpdate _ => cases hi
  | scSetText _ => cases hi
  | scEnable => cases hi
  | scDisable => cases hi

/-- What SC_UPDATE does: nothing, or it records the time, draws and steps the phase. -/
theorem exec_scUpdate {now : Time} {s t : State} (h : exec (.scUpdate now) s = .next t) :
    (tickGate now s = false ∧ t = s) ∨
    (tickGate now s = true ∧ ∃ u, Draws (s.withLastTick now) u ∧ t = stepPhase u) := by
  simp only [exec, execScUpdate] at h
  split at h <;> cases h
  · next hg => exact .inr ⟨hg, tick_draws params _⟩
  · next hg => exact .inl ⟨by simpa using hg, rfl⟩

/-- What SC_SET_TEXT does on a bound window: it loads the text, draws, and sets SC_EN. -/
theorem exec_scSetText {text : List Byte} {s t : State} (h : exec (.scSetText text) s = .next t) :
    s.scBound = true ∧ ∃ u, Draws (loadText text (s.withScEn false)) u ∧ t = u.withScEn true := by
  simp only [exec, execScSetText] at h
  split at h <;> cases h
  next hg => exact ⟨hg, _, (Draws.refl _).clearWindow params, rfl⟩

/-- `t` comes from `s` by some protocol blocks; the registers that are no outputs are free. -/
def ByBlocks (s t : State) : Prop := ∃ bs : List Block, OutputsAfter s (blockEvents bs) t

theorem Draws.byBlocks {s t u : State} (hs : OutputsAfter s [] u) (h : Draws u t) : ByBlocks s t := by
  obtain ⟨bs, a, rfl⟩ := h
  exact ⟨bs, by simpa using (hs.emitAll (blockEvents bs)).withCursor a⟩

/-- Everything a command can do to the outputs. -/
theorem exec_byBlocks {i : Instr} {s t : State} (h : exec i s = .next t) : ByBlocks s t := by
  have n := OutputsAfter.nil s
  by_cases hi : Instr.onlyDraws i = true
  · exact (exec_draws hi h).byBlocks n
  · cases i with
    | ciBegin => cases h; exact ⟨[], n.withCiEn true⟩
    | pgBegin => cases h; exact ⟨[], n.withPgEn true⟩
    | scConfig scol srow ecol erow delay text =>
      cases h
      exact ⟨[], (((((n.withWindow _ _).withText _).withPhase _).bound _).withLastTick _).withScEn _⟩
    | scUpdate now =>
      obtain ⟨-, rfl⟩ | ⟨-, u, hu, rfl⟩ := exec_scUpdate h
      · exact ⟨[], n⟩
      · obtain ⟨bs, hb⟩ := hu.byBlocks (n.withLastTick now)
        exact ⟨bs, hb.withPhase _⟩
    | scSetText text =>
      obtain ⟨-, u, hu, rfl⟩ := exec_scSetText h
      obtain ⟨bs, hb⟩ := hu.byBlocks (((n.withScEn false).withText text).withPhase _)
      exact ⟨bs, hb.withScEn true⟩
    | scEnable => cases h; exact ⟨[], n.withScEn true⟩
    | scDisable => cases h; exact ⟨[], n.withScEn false⟩
    | setCursor _ _ => exact absurd rfl hi
    | advance _ => exact absurd rfl hi
    | writeText _ => exact absurd rfl hi
    | writeChar _ => exact absurd rfl hi
    | writeCharAt _ _ _ => exact absurd rfl hi
    | writeBlockAt _ _ => exact absurd rfl hi
    | clear => exact absurd rfl hi
    | ciShow => exact absurd rfl hi
    | ciHide => exact absurd rfl hi
    | pgSelect _ => exact absurd rfl hi
    | bigNumber _ _ _ => exact absurd rfl hi
    | bigDigit _ _ _ => exact absurd rfl hi

/-- A step that answers a next state is idle, or runs one command. -/
theorem step_next {s t : State} (h : step s = .next t) :
    (s.port = [] ∧ t = s) ∨
    ∃ i rest, decode s.port = .ok (i, rest) ∧ exec i { s with port := rest } = .next t := by
  unfold step accept at h
  split at h
  · next h' =>
    left
    cases h
    refine ⟨?_, rfl⟩
    split at h' <;> cases h'
    next hd =>
      revert hd
      cases hp : s.port with
      | nil => simp
      | cons op bs =>
        simp only [decode]
        intro hd
        split at hd
        · cases hd
        · split at hd <;> cases hd
  · cases h
  · next i s' h' =>
    right
    split at h' <;> cases h'
    next rest hd => exact ⟨i, rest, hd, h⟩

end Sys2Proof.Machine
end

