-- ==== Sys2Proof/Laws/Ghost.lean ====
section
/-! SUPPORT. What the procedures' events do to the ghost model of the peripheral (R61, R62). -/

namespace Sys2Proof.Machine

@[simp] theorem Ghost.run_nil (g : Ghost) : g.run [] = g := rfl

theorem Ghost.run_append (g : Ghost) (es fs : List Event) : g.run (es ++ fs) = (g.run es).run fs := by
  simp [Ghost.run]

theorem State.ghost_emitAll (s : State) (es : List Event) : (s.emitAll es).ghost = s.ghost.run es := by
  simp [State.ghost, replay, Ghost.run_append]

/-- The ghost after an address write (R61). -/
theorem Ghost.run_addrWriteEvents (g : Ghost) (a : Byte) :
    g.run (addrWriteEvents a) = { g with bus := .byte a, addrStb := .high, addr := .byte a } := by
  simp [Ghost.run, addrWriteEvents, Ghost.next, Ghost.latchAddr]

/-- One cell of the selected page replaced. -/
def Ghost.setCell (g : Ghost) (a : Nat) (v : CellView) : Ghost :=
  g.setVisible fun x => if x = a then v else g.visible x

/-- The character strobe with a known cell latched (R62). -/
theorem Ghost.storeChar_eq (g : Ghost) (a : Byte) (code : Nat) (hb : g.bus = .byte (enc code)) (ha : g.addr = .byte a)
    (h : a.toNat < 160) (hc : code ≤ 127) : g.storeChar = g.setCell a.toNat (.code code) := by
  unfold Ghost.storeChar
  rw [hb, ha]
  simp only [Config.nCells, if_pos h, enc_reinvert code hc]
  rfl

/-- A character pulse is one sampling of the strobe. -/
theorem Ghost.run_charPulse (g : Ghost) (b : Byte) :
    g.run (charWriteEvents b) = { ({ g with bus := .byte b, charStb := .low } : Ghost).storeChar with charStb := .high } := by
  simp [Ghost.run, charWriteEvents, Ghost.next]

/-- The ghost after a character write to a known cell (R62). -/
theorem Ghost.run_charWriteEvents (g : Ghost) (a : Byte) (code : Nat) (ha : g.addr = .byte a) (h : a.toNat < 160)
    (hc : code ≤ 127) :
    g.run (charWriteEvents (enc code)) =
      { g.setCell a.toNat (.code code) with bus := .byte (enc code), charStb := .high } := by
  have hs := Ghost.storeChar_eq { g with bus := .byte (enc code), charStb := .low } a code rfl ha h hc
  rw [Ghost.run_charPulse, hs]; rfl

@[simp] theorem Ghost.setCell_selA (g : Ghost) (a : Nat) (v : CellView) : (g.setCell a v).selA = g.selA := rfl
@[simp] theorem Ghost.setCell_selB (g : Ghost) (a : Nat) (v : CellView) : (g.setCell a v).selB = g.selB := rfl
@[simp] theorem Ghost.setCell_addr (g : Ghost) (a : Nat) (v : CellView) : (g.setCell a v).addr = g.addr := rfl

theorem Ghost.setCell_visible (g : Ghost) (a x : Nat) (v : CellView) :
    (g.setCell a v).visible x = if x = a then v else g.visible x := by
  simp [Ghost.setCell, Ghost.setVisible, Ghost.visible]

theorem Ghost.setCell_frame (g : Ghost) (a : Nat) (v : CellView) (x y : Level) (c : Nat)
    (h : (x, y) ≠ (g.selA, g.selB)) : (g.setCell a v).frame x y c = g.frame x y c := by
  have : ¬ (x = g.selA ∧ y = g.selB) := fun ⟨h1, h2⟩ => h (by rw [h1, h2])
  simp [Ghost.setCell, Ghost.setVisible, this]

/-- Nothing written, nothing changed. -/
theorem Shows.refl (g : Ghost) : Shows (fun _ => none) g g := ⟨rfl, rfl, fun _ => rfl, fun _ _ _ _ => rfl⟩

/-- What comes later covers what came before. -/
theorem Shows.trans {f₁ f₂ : Nat → Option CellView} {g h k : Ghost} (a : Shows f₁ g h) (b : Shows f₂ h k) :
    Shows (fun x => (f₂ x).or (f₁ x)) g k :=
  ⟨b.selA.trans a.selA, b.selB.trans a.selB, fun x => by rw [b.cells, a.cells]; cases f₂ x <;> rfl,
    fun x y c hn => by rw [b.hidden _ _ _ (by rw [a.selA, a.selB]; exact hn), a.hidden _ _ _ hn]⟩

/-- An address write changes no cell (R61). -/
theorem Shows.addrWrite (g : Ghost) (a : Byte) : Shows (fun _ => none) g (g.run (addrWriteEvents a)) := by
  rw [Ghost.run_addrWriteEvents]; exact ⟨rfl, rfl, fun _ => rfl, fun _ _ _ _ => rfl⟩

/-- A character write shows its code in the latched cell (R62). -/
theorem Shows.charWrite (g : Ghost) (a : Byte) (code : Nat) (ha : g.addr = .byte a) (h : a.toNat < 160)
    (hc : code ≤ 127) : Shows (cellShown a.toNat code) g (g.run (charWriteEvents (enc code))) := by
  rw [Ghost.run_charWriteEvents g a code ha h hc]
  refine ⟨rfl, rfl, fun x => ?_, fun x y c hn => Ghost.setCell_frame g _ _ x y c hn⟩
  refine (Ghost.setCell_visible g a.toNat x (.code code)).trans ?_
  unfold cellShown; split <;> rfl

/-- A positioned character write shows its code in the cell (R61, R62). -/
theorem Shows.addrCharWrite (g : Ghost) (a : Byte) (code : Nat) (h : a.toNat < 160) (hc : code ≤ 127) :
    Shows (cellShown a.toNat code) g (g.run (addrWriteEvents a ++ charWriteEvents (enc code))) := by
  rw [Ghost.run_append]
  have := (Shows.addrWrite g a).trans
    (Shows.charWrite (g.run (addrWriteEvents a)) a code (by rw [Ghost.run_addrWriteEvents]) h hc)
  simpa using this

end Sys2Proof.Machine
end

