-- ==== Sys2Proof/Laws/PerInstr.lean ====
section
/-! SUPPORT. Facts about every command as syntax, one lemma per constructor: the length that R85 reads off a packet is
the length of the packet. -/

namespace Sys2Proof.Laws.PacketLength

/-- R80, R85: the opcode and the len byte of a well-formed command's packet give the packet's length. -/
def Statement (i : Instr) : Prop := i.WellFormed → packetLength (encode i) = (encode i).length

/-- A len byte reads back as the length of its text (R83). -/
theorem len_byte {text : List Byte} (h : TextFits text) : (byteOfNat text.length).toNat = text.length := by
  simp only [TextFits, Config.textMax] at h
  simp only [byteOfNat, BitVec.toNat_ofNat]
  omega

theorem setCursor (col row : Int) : Statement (.setCursor col row) := fun _ => rfl
theorem advance (n : Int) : Statement (.advance n) := fun _ => rfl

theorem writeText (text : List Byte) : Statement (.writeText text) := fun h => by
  have := len_byte (of_decide_eq_true h)
  simp [encode, textBytes, packetLength, formatOf, this]; omega

theorem writeChar (ch : Nat) : Statement (.writeChar ch) := fun _ => rfl
theorem writeCharAt (col row : Int) (ch : Nat) : Statement (.writeCharAt col row ch) := fun _ => rfl
theorem writeBlockAt (col row : Int) : Statement (.writeBlockAt col row) := fun _ => rfl
theorem clear : Statement .clear := fun _ => rfl
theorem ciBegin : Statement .ciBegin := fun _ => rfl
theorem ciShow : Statement .ciShow := fun _ => rfl
theorem ciHide : Statement .ciHide := fun _ => rfl
theorem pgBegin : Statement .pgBegin := fun _ => rfl
theorem pgSelect (page : Int) : Statement (.pgSelect page) := fun _ => rfl
theorem bigNumber (col row : Int) (number : Nat) : Statement (.bigNumber col row number) := fun _ => rfl
theorem bigDigit (col row : Int) (digit : Nat) : Statement (.bigDigit col row digit) := fun _ => rfl

theorem scConfig (scol srow ecol erow : Int) (delay : Time) (text : List Byte) :
    Statement (.scConfig scol srow ecol erow delay text) := fun h => by
  have := len_byte (of_decide_eq_true h).2.2.2.2
  simp [encode, textBytes, bytes32, packetLength, formatOf, this]; omega

theorem scUpdate (now : Time) : Statement (.scUpdate now) := fun _ => rfl

theorem scSetText (text : List Byte) : Statement (.scSetText text) := fun h => by
  have := len_byte (of_decide_eq_true h)
  simp [encode, textBytes, packetLength, formatOf, this]; omega

theorem scEnable : Statement .scEnable := fun _ => rfl
theorem scDisable : Statement .scDisable := fun _ => rfl

end Sys2Proof.Laws.PacketLength
end

