-- ==== Sys2Proof/Machine/Asm.lean ====
section
/-! DEFINITION. The assembler syntax of R86: one command per line, operands separated by commas, integers in decimal or
0x hexadecimal with an optional leading '-', a text operand in double quotes, a character operand in single quotes, a
comment from ';' on. It exists for writing programs; the engine never sees it (log entry 21). -/

namespace Sys2Proof.Machine

/-- The tokens of a line. -/
inductive AsmToken where
  | word (w : String)
  | comma
  | text (bytes : List Byte)
  | char (c : Byte)
  deriving DecidableEq, Repr

/-- Where the scanner stands: between tokens, in a word, in a text, after a quote, after a quoted character; the
collected characters are newest first. -/
inductive AsmMode where
  | blank
  | word (acc : List Char)
  | text (acc : List Char)
  | quote
  | quoted (c : Char)
  deriving DecidableEq, Repr

/-- A 7-bit character as its byte; the texts of R86 are ASCII. -/
def asciiByte (c : Char) : Option Byte := if c.toNat < 128 then some (BitVec.ofNat 8 c.toNat) else none

/-- The bytes of collected characters, newest first. -/
def asciiBytes (acc : List Char) : Option (List Byte) := acc.reverse.mapM asciiByte

/-- The tokens of a line, up to its comment. -/
def scanAsm : AsmMode → List Char → Option (List AsmToken)
  | .blank, [] => some []
  | .blank, c :: cs =>
    if c = ';' then some []
    else if c = ' ' ∨ c = '\t' then scanAsm .blank cs
    else if c = ',' then (scanAsm .blank cs).map (AsmToken.comma :: ·)
    else if c = '"' then scanAsm (.text []) cs
    else if c = '\'' then scanAsm .quote cs
    else scanAsm (.word [c]) cs
  | .word acc, [] => some [.word (String.ofList acc.reverse)]
  | .word acc, c :: cs =>
    if c = ';' then some [.word (String.ofList acc.reverse)]
    else if c = ' ' ∨ c = '\t' then (scanAsm .blank cs).map (AsmToken.word (String.ofList acc.reverse) :: ·)
    else if c = ',' then
      (scanAsm .blank cs).map fun ts => AsmToken.word (String.ofList acc.reverse) :: AsmToken.comma :: ts
    else scanAsm (.word (c :: acc)) cs
  | .text _, [] => none
  | .text acc, c :: cs =>
    if c = '"' then
      match asciiBytes acc, scanAsm .blank cs with
      | some bytes, some ts => some (.text bytes :: ts)
      | _, _ => none
    else scanAsm (.text (c :: acc)) cs
  | .quote, [] => none
  | .quote, c :: cs => scanAsm (.quoted c) cs
  | .quoted _, [] => none
  | .quoted c, d :: cs =>
    if d = '\'' then
      match asciiByte c, scanAsm .blank cs with
      | some b, some ts => some (.char b :: ts)
      | _, _ => none
    else none

/-- The value of a digit in a base of at most 16. -/
def digitValue (base : Nat) (c : Char) : Option Nat :=
  let v :=
    if '0'.toNat ≤ c.toNat ∧ c.toNat ≤ '9'.toNat then some (c.toNat - '0'.toNat)
    else if 'a'.toNat ≤ c.toNat ∧ c.toNat ≤ 'f'.toNat then some (c.toNat - 'a'.toNat + 10)
    else if 'A'.toNat ≤ c.toNat ∧ c.toNat ≤ 'F'.toNat then some (c.toNat - 'A'.toNat + 10)
    else none
  v.filter (· < base)

/-- The value of a non-empty run of digits. -/
def digitsValue (base : Nat) (cs : List Char) : Option Nat :=
  if cs = [] then none
  else cs.foldl (fun acc c => acc.bind fun a => (digitValue base c).map (a * base + ·)) (some 0)

/-- An unsigned integer, decimal or 0x hexadecimal. -/
def natLiteral : List Char → Option Nat
  | '0' :: 'x' :: cs => digitsValue 16 cs
  | cs => digitsValue 10 cs

/-- An integer with an optional leading '-'. -/
def intLiteral (w : String) : Option Int :=
  match w.toList with
  | '-' :: cs => (natLiteral cs).map fun n => -(n : Int)
  | cs => (natLiteral cs).map fun n => (n : Int)

/-- An operand of a line. -/
inductive AsmOperand where
  | int (v : Int)
  | text (bytes : List Byte)
  deriving DecidableEq, Repr

/-- One token as an operand; a character is its code (R86). -/
def asmOperand : AsmToken → Option AsmOperand
  | .word w => (intLiteral w).map .int
  | .text bytes => some (.text bytes)
  | .char c => some (.int c.toNat)
  | .comma => none

/-- The operands of a line, separated by single commas. -/
def asmOperands : List AsmToken → Option (List AsmOperand)
  | [] => some []
  | [t] => (asmOperand t).map fun o => [o]
  | t :: .comma :: u :: ts =>
    match asmOperand t, asmOperands (u :: ts) with
    | some o, some os => some (o :: os)
    | _, _ => none
  | _ => none

/-- An integer operand that must not be negative. -/
def asNat (v : Int) : Option Nat := if 0 ≤ v then some v.toNat else none

/-- An integer operand that must be a 32-bit time. -/
def asTime (v : Int) : Option Time := if 0 ≤ v ∧ v < 4294967296 then some (BitVec.ofInt 32 v) else none

/-- The command of a mnemonic and its operands, in the order of R81. -/
def asmCommand (mnemonic : String) (ops : List AsmOperand) : Option Instr :=
  match mnemonic, ops with
  | "SET_CURSOR", [.int c, .int r] => some (.setCursor c r)
  | "ADVANCE", [.int n] => some (.advance n)
  | "WRITE_TEXT", [.text t] => some (.writeText t)
  | "WRITE_CHAR", [.int ch] => (asNat ch).map .writeChar
  | "WRITE_CHAR_AT", [.int c, .int r, .int ch] => (asNat ch).map (.writeCharAt c r)
  | "WRITE_BLOCK_AT", [.int c, .int r] => some (.writeBlockAt c r)
  | "CLEAR", [] => some .clear
  | "CI_BEGIN", [] => some .ciBegin
  | "CI_SHOW", [] => some .ciShow
  | "CI_HIDE", [] => some .ciHide
  | "PG_BEGIN", [] => some .pgBegin
  | "PG_SELECT", [.int page] => some (.pgSelect page)
  | "BIG_NUMBER", [.int c, .int r, .int n] => (asNat n).map (.bigNumber c r)
  | "BIG_DIGIT", [.int c, .int r, .int d] => (asNat d).map (.bigDigit c r)
  | "SC_CONFIG", [.int sc, .int sr, .int ec, .int er, .int d, .text t] =>
      (asTime d).map fun d => .scConfig sc sr ec er d t
  | "SC_UPDATE", [.int now] => (asTime now).map .scUpdate
  | "SC_SET_TEXT", [.text t] => some (.scSetText t)
  | "SC_ENABLE", [] => some .scEnable
  | "SC_DISABLE", [] => some .scDisable
  | _, _ => none

/-- The command a line holds, if its operands fit their fields; a line with no command, or a faulty one, gives none. -/
def parseLine (line : String) : Option Instr :=
  match scanAsm .blank line.toList with
  | some (.word m :: ts) => ((asmOperands ts).bind (asmCommand m)).filter Instr.wf
  | _ => none

/-- The packet a line assembles to (R86). -/
def assemble (line : String) : Option (List Byte) := (parseLine line).map encode

end Sys2Proof.Machine
end

