-- ==== Sys2Proof/Tests/Slice0.lean ====
section
/-! SUPPORT. Tests: ill-formed terms the checks refuse; packets written out from spec/30_encoding.md and the programs of
spec/95_test_vectors.md; one or two steps per command with results from that file; and, for each statement with
hypotheses, states and operands that meet them. -/

namespace Sys2Proof.Tests

open Sys2Proof.Machine

/-! ## Helpers -/

/-- The next state of an outcome, if it has one. -/
def next? : Host.Outcome State Fault Refusal → Option State
  | .next s => some s
  | .fault _ => none
  | .refused _ => none

/-- The refusal of an outcome, if it has one. -/
def refusal? : Host.Outcome State Fault Refusal → Option Refusal
  | .next _ => none
  | .fault _ => none
  | .refused r => some r

/-- CURSOR and TRACE after a command. -/
def drawn (i : Instr) (s : State) : Option (Byte × List Event) := (next? (exec i s)).map fun t => (t.cursor, t.trace)

/-- `A(a)` of spec/95_test_vectors.md. -/
def wA (a : Byte) : List Event :=
  [.bus a, .drive .addrStb .low, .wait .settle, .drive .addrStb .high, .wait .settle]

/-- `C(b)` of spec/95_test_vectors.md. -/
def wC (b : Byte) : List Event :=
  [.bus b, .drive .charStb .low, .wait .settle, .drive .charStb .high, .wait .settle]

/-- Reset but for CURSOR. -/
def at_ (a : Byte) : State := { State.reset with cursor := a }

/-- The state after `SC_CONFIG 0, 0, 4, 0, 100, "AB"` (95_test_vectors.md 2.6), at a phase and a last tick. -/
def window (phase : BitVec 9) (last : Time) : State :=
  { State.reset with
    scBound := true, scEn := true, areaStart := 0, areaLen := 4, text := [0x41, 0x42], textLen := 2
    phase := phase, lastTick := last, delay := 100 }

/-- The clear part of a tick in that window (95_test_vectors.md S7). -/
def clearPart : List Event :=
  wA 0x00 ++ wC 0x5F ++ wA 0x01 ++ wC 0x5F ++ wA 0x02 ++ wC 0x5F ++ wA 0x03 ++ wC 0x5F ++ wA 0x04

/-- The test bitmap `GLYPH_T[1]` of 95_test_vectors.md 2.5, for every digit. -/
def glyphT : Fin 10 → Fin 5 → Fin 3 → Bool := fun _ r c =>
  match r.val with
  | 0 => c.val = 1
  | 1 => c.val = 0 ∨ c.val = 1
  | 4 => True
  | _ => c.val = 1

/-- A text of a given length. -/
def longText (n : Nat) : List Byte := List.replicate n 0x41

theorem textFits_longText (n : Nat) : TextFits (longText n) ↔ n ≤ 255 := by
  rw [TextFits, longText, List.length_replicate]; rfl

/-! ## Well-formedness refuses what no packet can hold (R82, R83) -/

theorem test_wf_setCursor_col : ¬ (Instr.setCursor 128 0).WellFormed := by decide
theorem test_wf_setCursor_row : ¬ (Instr.setCursor 0 (-129)).WellFormed := by decide
theorem test_wf_advance : ¬ (Instr.advance 32768).WellFormed := by decide
theorem test_wf_writeText : ¬ (Instr.writeText (longText 256)).WellFormed := by
  simp [Instr.wf, textFits_longText]
theorem test_wf_writeChar : ¬ (Instr.writeChar 256).WellFormed := by decide
theorem test_wf_writeCharAt_col : ¬ (Instr.writeCharAt (-129) 0 0).WellFormed := by decide
theorem test_wf_writeCharAt_row : ¬ (Instr.writeCharAt 0 128 0).WellFormed := by decide
theorem test_wf_writeCharAt_ch : ¬ (Instr.writeCharAt 0 0 256).WellFormed := by decide
theorem test_wf_writeBlockAt_col : ¬ (Instr.writeBlockAt 128 0).WellFormed := by decide
theorem test_wf_writeBlockAt_row : ¬ (Instr.writeBlockAt 0 128).WellFormed := by decide
theorem test_wf_pgSelect : ¬ (Instr.pgSelect 128).WellFormed := by decide
theorem test_wf_bigNumber_col : ¬ (Instr.bigNumber 128 0 0).WellFormed := by decide
theorem test_wf_bigNumber_row : ¬ (Instr.bigNumber 0 128 0).WellFormed := by decide
theorem test_wf_bigNumber_number : ¬ (Instr.bigNumber 0 0 65536).WellFormed := by decide
theorem test_wf_bigDigit_col : ¬ (Instr.bigDigit 128 0 0).WellFormed := by decide
theorem test_wf_bigDigit_row : ¬ (Instr.bigDigit 0 128 0).WellFormed := by decide
theorem test_wf_bigDigit_digit : ¬ (Instr.bigDigit 0 0 256).WellFormed := by decide
theorem test_wf_scConfig_scol : ¬ (Instr.scConfig 128 0 0 0 0 []).WellFormed := by decide
theorem test_wf_scConfig_srow : ¬ (Instr.scConfig 0 128 0 0 0 []).WellFormed := by decide
theorem test_wf_scConfig_ecol : ¬ (Instr.scConfig 0 0 128 0 0 []).WellFormed := by decide
theorem test_wf_scConfig_erow : ¬ (Instr.scConfig 0 0 0 (-129) 0 []).WellFormed := by decide
theorem test_wf_scConfig_text : ¬ (Instr.scConfig 0 0 0 0 0 (longText 256)).WellFormed := by
  simp [Instr.wf, textFits_longText]
theorem test_wf_scSetText : ¬ (Instr.scSetText (longText 256)).WellFormed := by
  simp [Instr.wf, textFits_longText]

/-! ## Decoding, every constructor from its bytes (R80 to R82; 95_test_vectors.md Part 3) -/

theorem test_decode_setCursor : decode [0x01, 0xFB, 0x0C] = .ok (.setCursor (-5) 12, []) := by rfl
theorem test_decode_advance : decode [0x02, 0x0E, 0x00] = .ok (.advance 14, []) := by rfl
theorem test_decode_advance_negative : decode [0x02, 0xFF, 0xFF] = .ok (.advance (-1), []) := by rfl
theorem test_decode_writeText : decode [0x03, 0x02, 0x48, 0x69, 0x07] = .ok (.writeText [0x48, 0x69], [0x07]) := by rfl
theorem test_decode_writeChar : decode [0x04, 0x21] = .ok (.writeChar 33, []) := by rfl
/-- A character byte is unsigned (R82). -/
theorem test_decode_writeCharAt : decode [0x05, 0x14, 0xFD, 0xFF] = .ok (.writeCharAt 20 (-3) 255, []) := by rfl
theorem test_decode_writeBlockAt : decode [0x06, 0x63, 0x80] = .ok (.writeBlockAt 99 (-128), []) := by rfl
theorem test_decode_clear : decode [0x07] = .ok (.clear, []) := by rfl
theorem test_decode_ciBegin : decode [0x08] = .ok (.ciBegin, []) := by rfl
theorem test_decode_ciShow : decode [0x09] = .ok (.ciShow, []) := by rfl
theorem test_decode_ciHide : decode [0x0A] = .ok (.ciHide, []) := by rfl
theorem test_decode_pgBegin : decode [0x0B] = .ok (.pgBegin, []) := by rfl
theorem test_decode_pgSelect : decode [0x0C, 0xFF] = .ok (.pgSelect (-1), []) := by rfl
/-- The number is little-endian and unsigned (R80, R82). -/
theorem test_decode_bigNumber : decode [0x0D, 0xFE, 0x00, 0x39, 0xFF] = .ok (.bigNumber (-2) 0 65337, []) := by rfl
theorem test_decode_bigDigit : decode [0x0E, 0x0E, 0x08, 0x01] = .ok (.bigDigit 14 8 1, []) := by rfl
theorem test_decode_scConfig :
    decode [0x10, 0x05, 0x03, 0x00, 0xFF, 0x64, 0x00, 0x00, 0x80, 0x02, 0x41, 0x42] =
      .ok (.scConfig 5 3 0 (-1) 2147483748 [0x41, 0x42], []) := by rfl
theorem test_decode_scUpdate : decode [0x11, 0x2C, 0x01, 0x00, 0x00] = .ok (.scUpdate 300, []) := by rfl
theorem test_decode_scSetText : decode [0x12, 0x02, 0x6F, 0x6B] = .ok (.scSetText [0x6F, 0x6B], []) := by rfl
theorem test_decode_scEnable : decode [0x13] = .ok (.scEnable, []) := by rfl
theorem test_decode_scDisable : decode [0x14] = .ok (.scDisable, []) := by rfl

/-- The unassigned opcodes at their ends (R84). -/
theorem test_decode_unassigned :
    decode [0x00] = .error (.unassignedOpcode 0x00) ∧ decode [0x0F, 1, 2, 3] = .error (.unassignedOpcode 0x0F) ∧
    decode [0x15] = .error (.unassignedOpcode 0x15) ∧ decode [0xFF] = .error (.unassignedOpcode 0xFF) :=
  ⟨rfl, rfl, rfl, rfl⟩

/-- Packets one byte short (R84), and a text one byte short of its len (R83). -/
theorem test_decode_short :
    decode [0x01, 0x03] = .error (.shortPacket 0x01) ∧ decode [0x03] = .error (.shortPacket 0x03) ∧
    decode [0x03, 0x02, 0x48] = .error (.shortPacket 0x03) ∧ decode [0x11, 0, 0, 0] = .error (.shortPacket 0x11) ∧
    decode [0x10, 0, 0, 4, 0, 100, 0, 0, 0] = .error (.shortPacket 0x10) :=
  ⟨rfl, rfl, rfl, rfl, rfl⟩

/-- Opcode-table words: opcode in bits 7..0, bits above nbits zero. -/
theorem test_tableWord :
    decodeTableWord 8 0x07 = some .clear ∧ decodeTableWord 24 0x02FB01 = some (.setCursor (-5) 2) ∧
    decodeTableWord 16 0x0003 = some (.writeText []) ∧ decodeTableWord 8 0x03 = some (.writeText []) ∧
    decodeTableWord 8 0x10 = some (.scConfig 0 0 0 0 0 []) ∧ decodeTableWord 8 0x0F = none := by decide

/-- The first step after reset runs the placed word. -/
theorem test_withFetchWord :
    (next? (step (State.reset.withFetchWord 24 0x020301))).map (fun s => (s.cursor, s.port)) = some (0x23, []) := by
  decide

/-! ## The assembler (R86) -/

theorem test_asm_setCursor : assemble "SET_CURSOR 3, 2" = some [0x01, 0x03, 0x02] := by decide
theorem test_asm_writeText : assemble "WRITE_TEXT \"Hi\"" = some [0x03, 0x02, 0x48, 0x69] := by decide
theorem test_asm_advance : assemble "ADVANCE -1 ; back" = some [0x02, 0xFF, 0xFF] := by decide
theorem test_asm_scUpdate : assemble "SC_UPDATE 0x3E8" = some [0x11, 0xE8, 0x03, 0x00, 0x00] := by decide
theorem test_asm_char : assemble "WRITE_CHAR '!'" = some [0x04, 0x21] := by decide

/-! ## Surface commands (95_test_vectors.md 2.3) -/

theorem test_setCursor_clamps_high : drawn (.setCursor 16 10) State.reset = some (0x9F, wA 0x9F) := by decide
theorem test_setCursor_clamps_each : drawn (.setCursor 127 (-128)) State.reset = some (0x0F, wA 0x0F) := by decide
theorem test_advance_subtracts : drawn (.advance 2) (at_ 159) = some (1, wA 0x01) := by decide
theorem test_advance_refused : refusal? (exec (.advance 161) (at_ 159)) = some .advanceOutsideDomain := by decide
theorem test_writeText_wraps : drawn (.writeText [0x61]) (at_ 159) = some (0, wC 0x3E ++ wA 0x00) := by decide
theorem test_writeText_clamps :
    drawn (.writeText [0x0A, 0x7F, 0xC8]) State.reset =
      some (3, wC 0x5F ++ wA 0x01 ++ wC 0x01 ++ wA 0x02 ++ wC 0x01 ++ wA 0x03) := by decide
/-- `WRITE_TEXT "Hi"` with `TEXT_ADDR_AFTER_EACH = 0`. -/
theorem test_textRun_no_resend :
    (textRun { params with textAddrAfterEach := false } [0x48, 0x69] (at_ 0x23)).trace = wC 0x37 ++ wC 0x36 := by decide
theorem test_writeChar_keeps_case : drawn (.writeChar 97) (at_ 7) = some (7, wC 0x1E) := by decide
theorem test_writeChar_no_block : drawn (.writeChar 127) State.reset = some (0, wC 0x01) := by decide
theorem test_writeCharAt : drawn (.writeCharAt 20 (-3) 31) State.reset = some (0x0F, wA 0x0F ++ wC 0x5F) := by decide
theorem test_writeBlockAt : drawn (.writeBlockAt 99 99) State.reset = some (0x9F, wA 0x9F ++ wC 0x00) := by decide
theorem test_clear :
    drawn .clear (at_ 77) = some (77, [.drive .clr .low, .wait .clear, .drive .clr .high]) := by decide

/-! ## Optional lines (95_test_vectors.md 2.4) -/

theorem test_ciBegin : drawn .ciBegin State.reset = some (0, []) := by decide
theorem test_ciShow_closed : next? (exec .ciShow State.reset) = some State.reset := by decide
theorem test_ciShow :
    drawn .ciShow { State.reset with ciEn := true } = some (0, [.drive .curInd .high]) := by decide
theorem test_ciHide :
    drawn .ciHide { State.reset with ciEn := true } = some (0, [.drive .curInd .low]) := by decide
theorem test_pgBegin : (next? (exec .pgBegin State.reset)).map (fun s => (s.pgEn, s.pageA)) = some (true, .undriven) := by
  decide
theorem test_pgSelect_two :
    drawn (.pgSelect 2) { State.reset with pgEn := true } = some (0, [.drive .pageA .high, .drive .pageB .low]) := by decide
theorem test_pgSelect_clamps :
    drawn (.pgSelect 100) { State.reset with pgEn := true } = some (0, [.drive .pageA .low, .drive .pageB .low]) := by
  decide

/-! ## Big numbers (95_test_vectors.md 2.5) -/

theorem test_bigNumber_zero : next? (exec (.bigNumber 0 0 0) State.reset) = some State.reset := by decide
/-- `BIG_NUMBER 0, 0, 12345`: 12 columns of 5 cells are drawn, the fifth digit is skipped. -/
theorem test_bigNumber_clipped :
    (numberCells params 0 0 [1, 2, 3, 4, 5]).length = 60 ∧
    lastCell 0 (numberCells params 0 0 [1, 2, 3, 4, 5]) = 0x4E := by
  constructor <;> rfl
/-- `BIG_DIGIT 14, 8, 1` with the test bitmap. -/
theorem test_bigDigit_bitmap :
    (drawDigit { params with glyph := glyphT } 1 14 8 State.reset).trace =
      wA 0x8E ++ wC 0x5F ++ wA 0x8F ++ wC 0x00 ++ wA 0x9E ++ wC 0x00 ++ wA 0x9F ++ wC 0x00 := by decide
theorem test_bigDigit_refused : refusal? (exec (.bigDigit 0 0 10) State.reset) = some .digitOutsideTable := by decide

/-! ## Scroll window (95_test_vectors.md 2.6, S7 to S9) -/

theorem test_scConfig :
    (next? (exec (.scConfig 0 0 4 0 100 [0x41, 0x42]) State.reset)) = some (window 6 0) := by decide
/-- The fallback, the window that ends at the last cell, and `WINDOW_END_INCLUSIVE = 1`. -/
theorem test_winLen :
    winLen params 0x04 0 0 = 1 ∧ winLen params 0x04 4 0 = 1 ∧ winLen params 0x9D 15 9 = 2 ∧
    winLen { params with windowEndInclusive := true } 0x00 4 0 = 5 := by decide
theorem test_scUpdate_gate : next? (exec (.scUpdate 199) (window 5 100)) = some (window 5 100) := by decide
/-- The third tick of S7, at phase 4. -/
theorem test_scUpdate_tick :
    (next? (exec (.scUpdate 301) (window 4 200))).map (fun s => (s.cursor, s.phase, s.lastTick, s.trace)) =
      some (4, 3, 301, clearPart ++ (wA 0x02 ++ wC 0x3E ++ wA 0x03 ++ wC 0x3D ++ wA 0x04)) := by decide
theorem test_scSetText :
    (next? (exec (.scSetText [0x6F, 0x6B, 0x21]) { window 3 301 with scEn := false })).map
        (fun s => (s.cursor, s.phase, s.scEn, s.text, s.trace)) =
      some (4, 7, true, [0x6F, 0x6B, 0x21], clearPart) := by decide
theorem test_scSetText_refused : refusal? (exec (.scSetText []) State.reset) = some .setTextBeforeConfig := by decide
theorem test_scEnable : (next? (exec .scEnable State.reset)).map State.scEn = some true := by decide
theorem test_scDisable : (next? (exec .scDisable (window 6 0))).map State.scEn = some false := by decide

/-! ## The ghost model and the pin level (95_test_vectors.md 2.2, 2.3) -/

/-- After `SET_CURSOR 0,0; WRITE_CHAR 65; WRITE_CHAR 66` cell 0 shows `B` and cell 1 is unknown. -/
theorem test_ghost_overwrites :
    (replay (wA 0x00 ++ wC 0x3E ++ wC 0x3D)).visible 0 = .code 66 ∧
    (replay (wA 0x00 ++ wC 0x3E ++ wC 0x3D)).visible 1 = .unknown := by decide

/-- `BusWrite(0x3E)` at pin level: the data levels L, L, H, H, H, H, H, L. -/
theorem test_busPins :
    (busPins 0x3E).filter (fun e => e = .serial .data .low ∨ e = .serial .data .high) =
      [.low, .low, .high, .high, .high, .high, .high, .low].map (PinEvent.serial .data) ∧
    ((State.reset.pins 0xA5 0x5A).run (busPins 0x3E)).bus = 0x3E := by decide

/-! ## Witnesses: each statement's hypotheses are met -/

theorem witness_DecodeOfEncode :
    (Instr.setCursor (-128) 127).WellFormed ∧ (Instr.advance (-32768)).WellFormed ∧
    (Instr.writeText (longText 255)).WellFormed ∧ (Instr.bigNumber 0 0 65535).WellFormed := by
  exact ⟨by decide, by decide, by show Instr.wf _ = true; simp [Instr.wf, textFits_longText], by decide⟩
theorem witness_EncodeOfDecode : decode [0x0C, 0x80, 0xFF] = .ok (.pgSelect (-128), [0xFF]) := by rfl
theorem witness_DecodeByOpcodeAndLength :
    formatOf 0x14 = some .f0 ∧ formatOf 0x15 = none ∧ packetLength [0x12, 0xFF] = 257 ∧ packetLength [0x10] = 10 := by
  decide
theorem witness_StepRunsDecodedCommand :
    decode (present [0x07, 0x01] State.reset).port = .ok (.clear, [0x01]) ∧ Instr.clear.WellFormed := ⟨rfl, rfl⟩
theorem witness_StepWithoutCommand :
    State.reset.port = [] ∧ decode (present [0x15] State.reset).port = .error (.unassignedOpcode 0x15) ∧
    decode (present [0x01] State.reset).port = .error (.shortPacket 0x01) := ⟨rfl, rfl, rfl⟩
theorem witness_StepsRunHostCommandsInOrder :
    (∀ i ∈ [Instr.clear, .setCursor 3 2, .advance 320], i.WellFormed) ∧ State.reset.port = [] := by decide
theorem witness_CommandsStopOnlyWhereUnspecified :
    refusal? (exec (.advance (-1)) State.reset) = some .advanceOutsideDomain ∧
    refusal? (exec (.advance 320) State.reset) = some .advanceOutsideDomain ∧
    refusal? (exec (.bigDigit 0 0 255) State.reset) = some .digitOutsideTable := by decide
theorem witness_AddressDecodeRecoversPosition : (15 : Nat) < 16 ∧ (9 : Nat) < 10 := by decide
theorem witness_CharacterEncoderIsInvolution : enc 0 = 0x7F ∧ enc 127 = 0x00 := by decide
theorem witness_PinExpansionShiftsByteIn : (State.reset.pins 0 0xFF).clk = .low := by rfl
/-- The four edges of the domain: sums 0, 159, 160, 319. -/
theorem witness_AdvanceResult :
    drawn (.advance (-10)) (at_ 10) = some (0, wA 0x00) ∧ drawn (.advance 159) State.reset = some (159, wA 0x9F) ∧
    drawn (.advance 160) State.reset = some (0, wA 0x00) ∧ drawn (.advance 319) State.reset = some (159, wA 0x9F) :=
  ⟨by decide +kernel, by decide +kernel, by decide +kernel, by decide +kernel⟩
theorem witness_WriteTextResult : CursorInGrid (at_ 0) ∧ CursorInGrid (at_ 159) := by decide
/-- Both ends of the lower-case letters, and their neighbours. -/
theorem witness_TextPutResult :
    CursorInGrid (at_ 159) ∧ disp 96 = 96 ∧ disp 97 = 65 ∧ disp 122 = 90 ∧ disp 123 = 123 ∧ disp 31 = 32 ∧
    disp 127 = 126 := by decide
theorem witness_WrapRulesAgreeForOneStep : CursorInGrid (at_ 159) := by decide
theorem witness_SelectedPageIsClampedPage : ({ State.reset with pgEn := true } : State).pgEn = true := by rfl
/-- One state for each of the four changes. -/
theorem witness_PageChangePassesThroughThirdPage :
    ∀ c ∈ [(0, .high, .high), (3, .low, .low), (1, .low, .high), (2, .high, .low)],
      let s : State := { State.reset with pgEn := true, pageA := c.2.1, pageB := c.2.2 }
      s.pgEn = true ∧ s.page = some c.1 := by decide
theorem witness_BigDigitResult : (next? (exec (.bigDigit 0 10 9) State.reset)) = some State.reset := by decide
theorem witness_WindowLengthRule :
    winLen params (cellAt 0 0) 1 0 = 1 ∧ winLen params (cellAt 0 0) 15 9 = 159 ∧
    winLen { params with windowEndInclusive := true } (cellAt 0 0) 15 9 = 160 := by decide
theorem witness_ScConfigResult : TextFits [] ∧ TextFits (longText 255) :=
  ⟨by decide, (textFits_longText 255).mpr (by decide)⟩
/-- One state for each way the gate is closed; 199 - 100 is one short of DELAY. -/
theorem witness_ScUpdateGateClosed :
    State.reset.scBound = false ∧ ({ window 5 100 with scEn := false } : State).scEn = false ∧
    ((((199 : Time).toNat : Int) - (window 5 100).lastTick.toNat) % 4294967296).toNat < (window 5 100).delay.toNat := by
  decide
/-- Elapsed time exactly DELAY, across the wrap of the time value, at phases 0, L and W + L. -/
theorem witness_ScUpdateTicks :
    (window 0 0xFFFFFFFF).scBound = true ∧ (window 0 0xFFFFFFFF).scEn = true ∧ WindowLegal (window 0 0xFFFFFFFF) ∧
    WindowLegal (window 2 0) ∧ WindowLegal (window 6 0) ∧
    (window 0 0xFFFFFFFF).delay.toNat ≤
      ((((99 : Time).toNat : Int) - (window 0 0xFFFFFFFF).lastTick.toNat) % 4294967296).toNat := by decide
/-- Both regimes and both ends of the phase. -/
theorem witness_TickResult :
    WindowLegal (window 0 0) ∧ WindowLegal (window 1 0) ∧ WindowLegal (window 2 0) ∧ WindowLegal (window 6 0) := by decide
theorem witness_ScSetTextResult :
    TextFits [0x61] ∧ (window 3 0).scBound = true ∧ (window 3 0).areaStart.toNat < 160 ∧ State.reset.scBound = false := by
  decide
theorem witness_ScrollCycleReturns :
    let s : State := { window 6 0 with delay := 0 }
    s.scBound = true ∧ s.scEn = true ∧ s.delay = 0 ∧ WindowLegal s ∧
    ([1, 2] : List Time).length ≤ s.phase.toNat ∧
    ([1, 2, 3, 4, 5, 6, 7] : List Time).length = s.areaLen.toNat + s.textLen.toNat + 1 := by decide
/-- For ModeBitWriters, ScrollRegisterWriters, CursorFrame, LineWriters, NoCellWithoutCharacterWrite and
BlockingTimeOfCommand: commands of every kind answer a next state. -/
theorem witness_CommandsComplete :
    ∀ i ∈ [Instr.setCursor 3 2, .advance 1, .writeChar 65, .clear, .ciBegin, .ciShow, .ciHide, .pgBegin, .pgSelect 1,
      .scConfig 0 0 4 0 100 [0x41], .scUpdate 5, .scSetText [0x41], .scEnable, .scDisable],
      (next? (exec i (window 6 0))).isSome := by decide
theorem witness_BlockingTimeOfCommand :
    (next? (exec (.writeChar 65) State.reset)).map State.trace = some (State.reset.trace ++ wC 0x3E) := by decide
theorem witness_TraceOnlyGrows : (next? (step (present [0x07] State.reset))).map State.port = some [] := by decide
theorem witness_PositioningLatchesCursor :
    (next? (exec (.advance 1) State.reset)).map (fun t => t.ghost.addr) = some (.byte 1) := by decide
theorem witness_CharacterLandsInOneCell :
    ({ State.reset with trace := wA 0x9F } : State).ghost.addr = .byte 0x9F ∧ (0x9F : Byte).toNat < 160 := by decide
theorem witness_UnpositionedWriteLosesPage : State.reset.ghost.addr = .undriven := by rfl
theorem witness_TextShownAtItsCells :
    let s : State := { at_ 0x9F with trace := wA 0x9F }
    CursorInGrid s ∧ LatchedIsCursor s ∧ Positioned s := by decide
theorem witness_TickShowsFrame :
    (window 4 0).scBound = true ∧ (window 4 0).scEn = true ∧ WindowLegal (window 4 0) ∧
    (window 4 0).delay.toNat ≤ ((100 : Time) - (window 4 0).lastTick).toNat := by decide
theorem witness_SetTextLeavesNoStaleCharacter :
    (window 3 0).scBound = true ∧ WindowLegal (window 3 0) ∧ TextFits [0x78, 0x79, 0x7A] := by decide

/-- For the invariants: a legal state with a bound window and a byte on the bus, and a command to step over. -/
def busy : State :=
  { window 6 0 with
    shift := .byte 0x04, bus := .byte 0x04, srLatch := .high, cursor := 4, trace := wA 0x04, port := [0x04, 0x41] }
theorem witness_StepKeepsLegal :
    CursorInGrid busy ∧ StrobesIdle busy ∧ ScrollLegal busy ∧ OptionalLinesLegal busy ∧
    (next? (step busy)).isSome := by decide
theorem witness_StepKeepsLegal_serial : Legal busy :=
  ⟨by decide, by decide, by decide, by decide, rfl, rfl, rfl, rfl⟩
theorem witness_StepKeepsTraceAgrees : TraceAgrees busy := ⟨rfl, rfl, rfl, rfl, rfl, rfl, rfl⟩
/-- The same with every optional line driven. -/
theorem witness_StepKeepsTraceAgrees_driven :
    TraceAgrees
      { busy with
        curInd := .high, pageA := .low, pageB := .high
        trace := wA 0x04 ++ [.drive .curInd .low, .drive .curInd .high, .drive .pageA .low, .drive .pageB .high] } :=
  ⟨rfl, rfl, rfl, rfl, rfl, rfl, rfl⟩
theorem witness_StepKeepsStrobeDiscipline : Disciplined busy.trace := by decide
theorem witness_StepKeepsLatchedAddress : LatchedIsCursor busy := .inr rfl
theorem witness_StepKeepsPinLevelAgreement : State.reset.srClk = .low ∧ PinsAgree State.reset := ⟨rfl, fun _ _ => rfl⟩
theorem witness_UnspecifiedValuesDoNotMatter :
    SameBesidesUnspecified State.reset
      { State.reset with
        busy := .high, shift := .byte 5, areaLen := 7, delay := 1, curInd := .high, pageA := .low, pageB := .high } :=
  ⟨rfl, fun h => absurd rfl h, fun h => absurd rfl h, fun h => absurd rfl h, fun h => by cases h⟩
/-- The other clauses: driven lines and a bound window, which do not differ. -/
theorem witness_UnspecifiedValuesDoNotMatter_driven :
    SameBesidesUnspecified { window 6 0 with curInd := .low, pageA := .high, pageB := .high }
      { window 6 0 with curInd := .low, pageA := .high, pageB := .high, busy := .low, bus := .byte 9 } :=
  ⟨rfl, fun _ => rfl, fun _ => rfl, fun _ => rfl, fun _ => ⟨rfl, rfl, rfl, rfl, rfl, rfl, rfl⟩⟩

end Sys2Proof.Tests
end

section
/-! PROOFS. The bus and the lines of DRIVE events are read off TRACE (R12, R27, R40). One event keeps the agreement,
hence any list of events does, and what a step does to the outputs is exactly to emit a list of events. -/

namespace Sys2Proof.Machine

/-- The character strobe acts on the page frames alone (R62). -/
theorem Ghost.storeChar_frame (g : Ghost) : ∃ f, g.storeChar = { g with frame := f } := by
  unfold Ghost.storeChar
  split
  · split <;> exact ⟨_, rfl⟩
  · exact ⟨_, rfl⟩

/-- A drive of ADDR_STB sets that line; a sampling touches G_ADDR alone (R61). -/
theorem Ghost.next_addrStb (g : Ghost) (v : Drive) :
    ∃ a, g.next (.drive .addrStb v) = { g with addrStb := v, addr := a } := by
  simp only [Ghost.next]
  split <;> exact ⟨_, rfl⟩

/-- A drive of CHAR_STB sets that line; a sampling touches the page frames alone (R62). -/
theorem Ghost.next_charStb (g : Ghost) (v : Drive) :
    ∃ f, g.next (.drive .charStb v) = { g with charStb := v, frame := f } := by
  simp only [Ghost.next]
  split
  · obtain ⟨f, hf⟩ := g.storeChar_frame
    exact ⟨f, by rw [hf]⟩
  · exact ⟨_, rfl⟩

/-- A drive of CLR sets that line; a clear pulse touches G_ADDR and the page frames alone (R63). -/
theorem Ghost.next_clr (g : Ghost) (v : Drive) :
    ∃ a f, g.next (.drive .clr v) = { g with clr := v, addr := a, frame := f } := by
  simp only [Ghost.next]
  split <;> exact ⟨_, _, rfl⟩

/-- The agreement of a state, stated about a known value of its ghost. -/
theorem TraceAgrees.of_ghost {s : State} {g : Ghost} (hg : s.ghost = g)
    (h : g.bus = s.bus ∧ g.addrStb = s.addrStb ∧ g.charStb = s.charStb ∧ g.clr = s.clr ∧ g.curInd = s.curInd ∧
      g.selA = s.pageA ∧ g.selB = s.pageB) : TraceAgrees s := by
  subst hg
  obtain ⟨hbus, haddr, hchar, hclr, hind, hA, hB⟩ := h
  exact ⟨hbus, haddr, hchar, hclr, hind, hA, hB⟩

/-- An event sets the bus or one line, in the state and in the reading of TRACE alike, and leaves the rest. -/
theorem TraceAgrees.emit {s : State} (h : TraceAgrees s) (e : Event) : TraceAgrees (s.emit e) := by
  have hg : (s.emit e).ghost = s.ghost.next e := s.ghost_emitAll [e]
  obtain ⟨hbus, haddr, hchar, hclr, hind, hA, hB⟩ := h
  cases e with
  | bus b => exact .of_ghost hg ⟨rfl, haddr, hchar, hclr, hind, hA, hB⟩
  | wait d => exact .of_ghost hg ⟨hbus, haddr, hchar, hclr, hind, hA, hB⟩
  | drive x v =>
    cases x with
    | addrStb =>
      obtain ⟨a, ha⟩ := s.ghost.next_addrStb v
      exact .of_ghost (hg.trans ha) ⟨hbus, rfl, hchar, hclr, hind, hA, hB⟩
    | charStb =>
      obtain ⟨f, hf⟩ := s.ghost.next_charStb v
      exact .of_ghost (hg.trans hf) ⟨hbus, haddr, rfl, hclr, hind, hA, hB⟩
    | clr =>
      obtain ⟨a, f, haf⟩ := s.ghost.next_clr v
      exact .of_ghost (hg.trans haf) ⟨hbus, haddr, hchar, rfl, hind, hA, hB⟩
    | curInd => exact .of_ghost hg ⟨hbus, haddr, hchar, hclr, rfl, hA, hB⟩
    | pageA => exact .of_ghost hg ⟨hbus, haddr, hchar, hclr, hind, rfl, hB⟩
    | pageB => exact .of_ghost hg ⟨hbus, haddr, hchar, hclr, hind, hA, rfl⟩

/-- A list of events keeps the agreement. -/
theorem TraceAgrees.emitAll {s : State} (h : TraceAgrees s) (es : List Event) : TraceAgrees (s.emitAll es) := by
  induction es generalizing s with
  | nil => exact h
  | cons e es ih => exact ih (h.emit e)

/-- The agreement depends on the outputs alone, so it carries over to any state that has those of `s` after `es`. -/
theorem OutputsAfter.traceAgrees {s t : State} {es : List Event} (h : OutputsAfter s es t) (hs : TraceAgrees s) :
    TraceAgrees t := by
  obtain ⟨hbus, haddr, hchar, hclr, hind, hA, hB⟩ := hs.emitAll es
  rw [h]
  exact ⟨hbus, haddr, hchar, hclr, hind, hA, hB⟩

/-- Taking a packet from the port touches neither TRACE nor a line. -/
theorem TraceAgrees.withPort {s : State} (h : TraceAgrees s) (port : List Byte) :
    TraceAgrees { s with port := port } :=
  ⟨h.bus, h.addrStb, h.charStb, h.clr, h.curInd, h.selA, h.selB⟩

/-- Settles O55: a step is idle, or takes a packet and emits the events of its command. -/
theorem stepKeepsTraceAgrees : Obligations.StepKeepsTraceAgrees := by
  intro s t hs h
  obtain ⟨-, rfl⟩ | ⟨i, rest, -, hi⟩ := step_next h
  · exact hs
  · obtain ⟨bs, hb⟩ := exec_byBlocks hi
    exact hb.traceAgrees (hs.withPort rest)

end Sys2Proof.Machine
end

section
/-! PROOFS. The writing procedures (R121, R125, R155, R157, R179, R180). Each emits events of address and character writes
and moves CURSOR, and what it emits is settled by CURSOR alone. From this follow its frame and, in the section on what the
machine must not depend on, that it does the same from any two states with the same CURSOR. -/

namespace Sys2Proof.Machine

/-- The events of which address and character writes are made (R104, R105). -/
def Event.ofWrite : Event → Bool
  | .bus _ | .drive .addrStb _ | .drive .charStb _ | .wait _ => true
  | .drive .clr _ | .drive .curInd _ | .drive .pageA _ | .drive .pageB _ => false

theorem ofWrite_addrWriteEvents (a : Byte) : ∀ e ∈ addrWriteEvents a, e.ofWrite = true := by
  simp [addrWriteEvents, Event.ofWrite]

theorem ofWrite_charWriteEvents (b : Byte) : ∀ e ∈ charWriteEvents b, e.ofWrite = true := by
  simp [charWriteEvents, Event.ofWrite]

/-- A procedure that writes: it emits events of address and character writes and leaves a new CURSOR; both depend on
CURSOR alone. -/
def Writes (f : State → State) : Prop :=
  ∃ (es : Byte → List Event) (a : Byte → Byte), (∀ c, ∀ e ∈ es c, e.ofWrite = true) ∧
    ∀ s, f s = (s.emitAll (es s.cursor)).withCursor (a s.cursor)

theorem Writes.id : Writes fun s => s := ⟨fun _ => [], fun c => c, by simp, fun _ => rfl⟩

/-- One procedure after another: the second starts from the CURSOR the first leaves. -/
theorem Writes.comp {f g : State → State} (hf : Writes f) (hg : Writes g) : Writes fun s => g (f s) := by
  obtain ⟨es, a, hes, hf⟩ := hf
  obtain ⟨fs, b, hfs, hg⟩ := hg
  refine ⟨fun c => es c ++ fs (a c), fun c => b (a c), fun c => ?_, fun s => ?_⟩
  · exact List.forall_mem_append.mpr ⟨hes c, hfs (a c)⟩
  · simp only [hg, hf, State.withCursor_cursor, emitAll_withCursor_emitAll, State.withCursor_withCursor]

theorem Writes.addrSet (a : Byte) : Writes (addrSet a) :=
  ⟨fun _ => addrWriteEvents a, fun _ => a, fun _ => ofWrite_addrWriteEvents a, addrSet_eq a⟩

theorem Writes.charWrite (b : Byte) : Writes (charWrite b) :=
  ⟨fun _ => charWriteEvents b, fun c => c, fun _ => ofWrite_charWriteEvents b, fun s => by
    have h := (s.emitAll (charWriteEvents b)).withCursor_self
    rw [State.emitAll_cursor] at h
    exact h.symm⟩

theorem Writes.textPut (p : Params) (ch : Byte) : Writes (textPut p · ch) := by
  refine ⟨fun c =>
    charWriteEvents (enc (disp ch.toNat)) ++ if p.textAddrAfterEach then addrWriteEvents (nextCell c) else [],
    nextCell, fun c => List.forall_mem_append.mpr ⟨ofWrite_charWriteEvents _, ?_⟩, fun s => textPut_eq p s ch⟩
  split
  · exact ofWrite_addrWriteEvents _
  · simp

theorem Writes.foldl {α : Type} {f : State → α → State} (hf : ∀ x, Writes (f · x)) (xs : List α) :
    Writes fun s => xs.foldl f s := by
  induction xs with
  | nil => exact Writes.id
  | cons x xs ih => exact (hf x).comp ih

theorem Writes.textRun (p : Params) (text : List Byte) : Writes (textRun p text) :=
  Writes.foldl (Writes.textPut p) text

theorem Writes.setCursor (col row : Int) : Writes (setCursor col row) := Writes.addrSet _

theorem Writes.writeChar (ch : Nat) : Writes (writeChar ch) := Writes.charWrite _

theorem Writes.writeCharAt (col row : Int) (ch : Nat) : Writes (writeCharAt col row ch) :=
  (Writes.setCursor col row).comp (Writes.writeChar ch)

theorem Writes.writeBlockAt (col row : Int) : Writes (writeBlockAt col row) :=
  (Writes.setCursor col row).comp (Writes.charWrite _)

theorem Writes.drawGlyphCell (p : Params) (d : Fin 10) (col row : Int) (cell : Fin 5 × Fin 3) :
    Writes (drawGlyphCell p d col row · cell) := by
  unfold Machine.drawGlyphCell
  dsimp only
  split
  · split
    · exact Writes.writeBlockAt _ _
    · exact Writes.writeCharAt _ _ _
  · exact Writes.id

theorem Writes.drawDigit (p : Params) (d : Fin 10) (col row : Int) : Writes (drawDigit p d col row) :=
  Writes.foldl (Writes.drawGlyphCell p d col row) glyphCells

theorem Writes.drawNumber (p : Params) (col row : Int) (number : Nat) : Writes (drawNumber p col row number) :=
  Writes.foldl (fun _ => Writes.drawDigit p _ _ row) _

/-- From `s` to `t` nothing changes but CURSOR, the shift register with its serial lines, the two strobes and TRACE. -/
def BusFrame (s t : State) : Prop :=
  t = { s with
    cursor := t.cursor, shift := t.shift, bus := t.bus, srData := t.srData, srClk := t.srClk, srLatch := t.srLatch
    addrStb := t.addrStb, charStb := t.charStb, trace := t.trace }

theorem BusFrame.trans {s t u : State} (h₁ : BusFrame s t) (h₂ : BusFrame t u) : BusFrame s u := by
  unfold BusFrame at *
  rw [h₂, h₁]

theorem BusFrame.emit {e : Event} (he : e.ofWrite = true) (s : State) : BusFrame s (s.emit e) := by
  cases e with
  | bus b => rfl
  | wait t => rfl
  | drive x v =>
    cases x with
    | addrStb => rfl
    | charStb => rfl
    | clr => cases he
    | curInd => cases he
    | pageA => cases he
    | pageB => cases he

theorem BusFrame.emitAll {es : List Event} (hes : ∀ e ∈ es, e.ofWrite = true) (s : State) :
    BusFrame s (s.emitAll es) := by
  induction es generalizing s with
  | nil => rfl
  | cons e es ih =>
    obtain ⟨he, hes⟩ := List.forall_mem_cons.mp hes
    exact (BusFrame.emit he s).trans (ih hes _)

theorem BusFrame.withCursor (s : State) (a : Byte) : BusFrame s (s.withCursor a) := rfl

/-- What a writing procedure leaves alone. -/
theorem Writes.frame {f : State → State} (hf : Writes f) (s : State) : BusFrame s (f s) := by
  obtain ⟨es, a, hes, hf⟩ := hf
  rw [hf]
  exact (BusFrame.emitAll (hes _) s).trans (BusFrame.withCursor _ _)

theorem sameScroll_refl (s : State) : SameScroll s s := ⟨rfl, rfl, rfl, rfl, rfl, rfl, rfl⟩

/-- What `ClearWindow` writes depends on the scroll registers and CURSOR alone (R179). -/
theorem clearWindow_writes (p : Params) (s₀ : State) :
    ∃ f, Writes f ∧ ∀ s, SameScroll s₀ s → clearWindow p s = f s := by
  refine ⟨_, (Writes.addrSet s₀.areaStart).comp (Writes.textRun p (List.replicate s₀.areaLen.toNat 32)), ?_⟩
  rintro s ⟨hstart, hlen, -⟩
  rw [clearWindow, hstart, hlen]

/-- What `Render` writes depends on the scroll registers and CURSOR alone (R180). -/
theorem render_writes (p : Params) (s₀ : State) :
    ∃ f, Writes f ∧ ∀ s, SameScroll s₀ s → render p s = f s := by
  obtain ⟨plan, hplan⟩ :
      ∃ plan, renderPlan s₀.phase.toNat s₀.textLen.toNat s₀.areaLen.toNat s₀.areaStart.toNat = plan := ⟨_, rfl⟩
  by_cases hcount : 0 < plan.count
  · refine ⟨_, (Writes.addrSet (BitVec.ofNat 8 plan.pos)).comp
      (Writes.textRun p ((List.range plan.count).map fun j => s₀.text.getD (plan.first + j) 0)), ?_⟩
    rintro s ⟨hstart, hlen, htext, htextLen, hphase, -, -⟩
    simp only [render, hstart, hlen, htext, htextLen, hphase, hplan]
    exact if_pos hcount
  · refine ⟨_, Writes.id, ?_⟩
    rintro s ⟨hstart, hlen, htext, htextLen, hphase, -, -⟩
    simp only [render, hstart, hlen, htext, htextLen, hphase, hplan]
    exact if_neg hcount

/-- What `Tick` writes depends on the scroll registers and CURSOR alone; then it steps the phase (R178). -/
theorem tick_writes (p : Params) (s₀ : State) :
    ∃ f, Writes f ∧ ∀ s, SameScroll s₀ s → tick p s = stepPhase (f s) := by
  obtain ⟨f, hf, hclear⟩ := clearWindow_writes p s₀
  obtain ⟨g, hg, hrender⟩ := render_writes p s₀
  refine ⟨_, hf.comp hg, fun s hs => ?_⟩
  have hfs : SameScroll s₀ (f s) := by
    rw [hf.frame s]
    exact hs
  rw [tick, hclear s hs, hrender _ hfs]

end Sys2Proof.Machine
end

section
/-! PROOFS. What a command that completes can do, said once, one constructor per kind of command. -/

namespace Sys2Proof.Machine

/-- The commands that do nothing but write: those of the surface but CLEAR, and the big numbers (R131). -/
def Instr.onlyWrites : Instr → Bool
  | .setCursor _ _ | .advance _ | .writeText _ | .writeChar _ | .writeCharAt _ _ _ | .writeBlockAt _ _
  | .bigNumber _ _ _ | .bigDigit _ _ _ => true
  | .clear | .ciBegin | .ciShow | .ciHide | .pgBegin | .pgSelect _ | .scConfig _ _ _ _ _ _ | .scUpdate _
  | .scSetText _ | .scEnable | .scDisable => false

/-- The command finds its gate closed, and so does nothing (R141, R142, R145, R176). -/
def Instr.gateClosed : Instr → State → Bool
  | .ciShow, s | .ciHide, s => !indicatorGate s
  | .pgSelect _, s => !pagingGate s
  | .scUpdate now, s => !tickGate now s
  | _, _ => false

/-- PG_SELECT's two events (R145). -/
def pageEvents (page : Int) : List Event :=
  [.drive .pageA (levelOfBit ((pageBits page).getLsbD 0)), .drive .pageB (levelOfBit ((pageBits page).getLsbD 1))]

/-- The registers SC_CONFIG writes (R170). -/
theorem configure_eq (p : Params) (scol srow ecol erow : Int) (delay : Time) (text : List Byte) (s : State) :
    configure p scol srow ecol erow delay text s =
      let w : Byte := BitVec.ofNat 8 (winLen p (cellAt scol srow) ecol erow)
      let l : Byte := BitVec.ofNat 8 text.length
      { s with
        areaStart := cellAt scol srow, areaLen := w, text := text, textLen := l, phase := phaseTop w l
        delay := delay, lastTick := 0, scBound := true, scEn := true } := by
  simp only [configure, loadText, State.withWindow, State.withText, State.withPhase, State.bound, State.withLastTick,
    State.withScEn]

/-- PG_SELECT's events leave each page line at its last level (R145). -/
theorem emitAll_pageEvents (page : Int) (s : State) :
    s.emitAll (pageEvents page) =
      { s with
        pageA := (levelOfBit ((pageBits page).getLsbD 0)).toLevel
        pageB := (levelOfBit ((pageBits page).getLsbD 1)).toLevel
        trace := s.trace ++ pageEvents page } := by
  simp [pageEvents, State.emit, State.apply]

/-- CLEAR's pulse ends with CLR high (R130). -/
theorem emitAll_clearEvents (s : State) :
    s.emitAll clearEvents = { s with clr := .high, trace := s.trace ++ clearEvents } := by
  simp [clearEvents, State.emit, State.apply]

/-- Everything a command that completes can do, from a state `s`. -/
inductive Effect (s : State) : Instr → State → Prop
  | writes {i : Instr} {f : State → State} (hi : Instr.onlyWrites i = true) (hf : Writes f) : Effect s i (f s)
  | gateClosed {i : Instr} (hi : Instr.gateClosed i s = true) : Effect s i s
  | clear : Effect s .clear (s.emitAll clearEvents)
  | ciBegin : Effect s .ciBegin (s.withCiEn true)
  | ciShow (hg : s.ciEn = true) : Effect s .ciShow (s.emit (.drive .curInd .high))
  | ciHide (hg : s.ciEn = true) : Effect s .ciHide (s.emit (.drive .curInd .low))
  | pgBegin : Effect s .pgBegin (s.withPgEn true)
  | pgSelect {page : Int} (hg : s.pgEn = true) : Effect s (.pgSelect page) (s.emitAll (pageEvents page))
  | scConfig {scol srow ecol erow : Int} {delay : Time} {text : List Byte} :
      Effect s (.scConfig scol srow ecol erow delay text) (configure params scol srow ecol erow delay text s)
  | scUpdate {now : Time} {f : State → State} (hg : tickGate now s = true) (hf : Writes f) :
      Effect s (.scUpdate now) (stepPhase (f (s.withLastTick now)))
  | scSetText {text : List Byte} {f : State → State} (hg : s.scBound = true) (hf : Writes f) :
      Effect s (.scSetText text) ((f (loadText text (s.withScEn false))).withScEn true)
  | scEnable : Effect s .scEnable (s.withScEn true)
  | scDisable : Effect s .scDisable (s.withScEn false)

/-- A command that completes has one of the effects. -/
theorem exec_effect {i : Instr} {s t : State} (h : exec i s = .next t) : Effect s i t := by
  cases i with
  | setCursor col row => cases h; exact .writes rfl (Writes.setCursor col row)
  | advance n =>
    simp only [exec, execAdvance] at h
    split at h <;> cases h
    exact .writes rfl (Writes.addrSet _)
  | writeText text => cases h; exact .writes rfl (Writes.textRun params text)
  | writeChar ch => cases h; exact .writes rfl (Writes.writeChar ch)
  | writeCharAt col row ch => cases h; exact .writes rfl (Writes.writeCharAt col row ch)
  | writeBlockAt col row => cases h; exact .writes rfl (Writes.writeBlockAt col row)
  | clear => cases h; exact .clear
  | ciBegin => cases h; exact .ciBegin
  | ciShow =>
    simp only [exec, execCiShow] at h
    split at h <;> cases h
    · next hg => exact .ciShow hg
    · next hg => exact .gateClosed (by simpa [Instr.gateClosed] using hg)
  | ciHide =>
    simp only [exec, execCiHide] at h
    split at h <;> cases h
    · next hg => exact .ciHide hg
    · next hg => exact .gateClosed (by simpa [Instr.gateClosed] using hg)
  | pgBegin => cases h; exact .pgBegin
  | pgSelect page =>
    simp only [exec, execPgSelect] at h
    split at h <;> cases h
    · next hg => exact .pgSelect hg
    · next hg => exact .gateClosed (by simpa [Instr.gateClosed] using hg)
  | bigNumber col row number => cases h; exact .writes rfl (Writes.drawNumber params col row number)
  | bigDigit col row digit =>
    simp only [exec, execBigDigit] at h
    split at h <;> cases h
    exact .writes rfl (Writes.drawDigit params _ col row)
  | scConfig scol srow ecol erow delay text => cases h; exact .scConfig
  | scUpdate now =>
    obtain ⟨f, hf, htick⟩ := tick_writes params (s.withLastTick now)
    simp only [exec, execScUpdate, htick _ (sameScroll_refl _)] at h
    split at h <;> cases h
    · next hg => exact .scUpdate hg hf
    · next hg => exact .gateClosed (by simpa [Instr.gateClosed] using hg)
  | scSetText text =>
    obtain ⟨f, hf, hclear⟩ := clearWindow_writes params (loadText text (s.withScEn false))
    simp only [exec, execScSetText, hclear _ (sameScroll_refl _)] at h
    split at h <;> cases h
    next hg => exact .scSetText hg hf
  | scEnable => cases h; exact .scEnable
  | scDisable => cases h; exact .scDisable

end Sys2Proof.Machine
end

section
/-! PROOFS. Who writes what (R20 to R35, R100): the frame statements, read off `Effect`. -/

namespace Sys2Proof.Machine

/-- Settles O38: a mode bit is no output and no command but its writers names it (`Effect`). -/
theorem modeBitWriters : Obligations.ModeBitWriters := by
  intro i s t h
  cases exec_effect h with
  | @writes _ f hi hf =>
    rw [hf.frame s]
    cases i <;> simp [Instr.onlyWrites] at hi ⊢
  | gateClosed hi => cases i <;> simp [Instr.gateClosed] at hi ⊢
  | clear => simp
  | ciBegin => simp
  | ciShow hg => simp
  | ciHide hg => simp
  | pgBegin => simp
  | pgSelect hg => simp
  | scConfig => simp [configure_eq]
  | scUpdate hg hf => rw [hf.frame]; simp [stepPhase_eq]
  | scSetText hg hf => rw [hf.frame]; simp [loadText]
  | scEnable => simp
  | scDisable => simp

/-- Settles O39: drawing leaves the scroll registers alone, so SC_UPDATE writes PHASE and LAST_TICK only, and
SC_SET_TEXT the text with its length and phase. -/
theorem scrollRegisterWriters : Obligations.ScrollRegisterWriters := by
  intro i s t h
  cases exec_effect h with
  | writes hi hf =>
    rw [hf.frame s]
    cases i <;> simp [Instr.onlyWrites, SameScroll] at hi ⊢
  | gateClosed hi => cases i <;> simp [Instr.gateClosed, SameScroll] at hi ⊢
  | clear => simp [SameScroll]
  | ciBegin => simp [SameScroll]
  | ciShow hg => simp [SameScroll]
  | ciHide hg => simp [SameScroll]
  | pgBegin => simp [SameScroll]
  | pgSelect hg => simp [SameScroll]
  | scConfig => trivial
  | scUpdate hg hf => rw [hf.frame]; simp [stepPhase_eq]
  | scSetText hg hf => rw [hf.frame]; simp [loadText]
  | scEnable => simp [SameScroll]
  | scDisable => simp [SameScroll]

/-- Settles O41: a procedure that writes has the frame `BusFrame`, and every other
command is one arm of `Effect`. -/
theorem lineWriters : Obligations.LineWriters := by
  intro i s t h
  cases exec_effect h with
  | writes hi hf =>
    rw [hf.frame s]
    cases i <;> simp [Instr.onlyWrites] at hi ⊢
  | gateClosed hi => cases i <;> simp [Instr.gateClosed] at hi ⊢
  | clear => simp [emitAll_clearEvents]
  | ciBegin => simp
  | ciShow hg => simp [State.emit, State.apply]
  | ciHide hg => simp [State.emit, State.apply]
  | pgBegin => simp
  | pgSelect hg => simp [emitAll_pageEvents]
  | scConfig => simp [configure_eq]
  | scUpdate hg hf => rw [hf.frame]; simp [stepPhase_eq]
  | scSetText hg hf => rw [hf.frame]; simp [loadText]
  | scEnable => simp
  | scDisable => simp

/-- Settles O40: of the writing commands the statement lists WRITE_CHAR alone, which is one character write. -/
theorem cursorFrame : Obligations.CursorFrame := by
  intro i s t h
  cases exec_effect h with
  | writes hi hf =>
    cases i <;> simp [Instr.onlyWrites] at hi ⊢
    case writeChar ch =>
      rw [← Host.Outcome.next.inj h]
      exact s.emitAll_cursor _
  | gateClosed hi => cases i <;> simp [Instr.gateClosed] at hi ⊢
  | clear => simp
  | ciBegin => simp
  | ciShow hg => simp
  | ciHide hg => simp
  | pgBegin => simp
  | pgSelect hg => simp
  | scConfig => simp [configure_eq]
  | scUpdate hg hf => trivial
  | scSetText hg hf => trivial
  | scEnable => simp
  | scDisable => simp

/-- Settles O42: a step is idle or emits the blocks of one command. -/
theorem traceOnlyGrows : Obligations.TraceOnlyGrows := by
  intro s t h
  obtain ⟨-, rfl⟩ | ⟨i, rest, -, hi⟩ := step_next h
  · exact ⟨[], (List.append_nil _).symm⟩
  · obtain ⟨bs, hb⟩ := exec_byBlocks hi
    exact ⟨_, hb.trace⟩

/-- The levels of PG_SELECT select the clamped page (R23, R77). -/
theorem pageOf_pageBits (page : Int) :
    pageOf (levelOfBit ((pageBits page).getLsbD 0)).toLevel (levelOfBit ((pageBits page).getLsbD 1)).toLevel =
      some (min 3 (max 0 page)).toNat := by
  rw [pageBits_lineA, pageBits_lineB]
  obtain ⟨-, h | h | h | h⟩ := clampPage_cases page <;> rw [h] <;> rfl

/-- PG_SELECT with its gate open (R145). -/
theorem exec_pgSelect (page : Int) {s : State} (hg : s.pgEn = true) :
    exec (.pgSelect page) s = .next (s.emitAll (pageEvents page)) :=
  congrArg Host.Outcome.next (if_pos hg)

/-- Settles O25: the ghost reads the two drives off TRACE, so both views are the same pair of levels. -/
theorem selectedPageIsClampedPage : Obligations.SelectedPageIsClampedPage := by
  intro page s hg
  refine ⟨_, exec_pgSelect page hg, pageOf_pageBits page, ?_⟩
  rw [State.ghost_emitAll]
  exact pageOf_pageBits page

end Sys2Proof.Machine
end

section
/-! PROOFS. The decoder answers well-formed commands only (R82, R83): the bytes of each format are in the range of its
operands. -/

namespace Sys2Proof

theorem sext8_range (b : Byte) : InSext8 (sext8 b) := by
  have hlo := b.le_toInt
  have hhi := b.toInt_lt
  simp only [InSext8, sext8]
  omega

theorem zext8_range (b : Byte) : InZext8 (zext8 b) := by
  have := b.isLt
  simp only [InZext8, zext8]
  omega

theorem le16_toInt_range (lo hi : Byte) : InSext16 (le16 lo hi).toInt := by
  have hlo := (le16 lo hi).le_toInt
  have hhi := (le16 lo hi).toInt_lt
  simp only [InSext16]
  omega

theorem le16_toNat_range (lo hi : Byte) : InZext16 (le16 lo hi).toNat := by
  have := (le16 lo hi).isLt
  simp only [InZext16]
  omega

variable {i : Instr} {bs rest : List Byte}

theorem readF1_wf {mk : Byte → Instr} (h : readF1 mk bs = some (i, rest))
    (hmk : ∀ a, (mk a).WellFormed) : i.WellFormed := by
  unfold readF1 at h
  split at h <;> cases h
  exact hmk _

theorem readF2_wf {mk : Int → Int → Instr} (h : readF2 mk bs = some (i, rest))
    (hmk : ∀ c r, InSext8 c → InSext8 r → (mk c r).WellFormed) : i.WellFormed := by
  unfold readF2 at h
  split at h <;> cases h
  exact hmk _ _ (sext8_range _) (sext8_range _)

theorem readF3_wf {mk : Int → Int → Nat → Instr} (h : readF3 mk bs = some (i, rest))
    (hmk : ∀ c r x, InSext8 c → InSext8 r → InZext8 x → (mk c r x).WellFormed) : i.WellFormed := by
  unfold readF3 at h
  split at h <;> cases h
  exact hmk _ _ _ (sext8_range _) (sext8_range _) (zext8_range _)

theorem readFN_wf {mk : Int → Instr} (h : readFN mk bs = some (i, rest))
    (hmk : ∀ n, InSext16 n → (mk n).WellFormed) : i.WellFormed := by
  unfold readFN at h
  split at h <;> cases h
  exact hmk _ (le16_toInt_range _ _)

theorem readFB_wf {mk : Int → Int → Nat → Instr} (h : readFB mk bs = some (i, rest))
    (hmk : ∀ c r n, InSext8 c → InSext8 r → InZext16 n → (mk c r n).WellFormed) : i.WellFormed := by
  unfold readFB at h
  split at h <;> cases h
  exact hmk _ _ _ (sext8_range _) (sext8_range _) (le16_toNat_range _ _)

theorem readFS_wf {mk : List Byte → Instr} (h : readFS mk bs = some (i, rest))
    (hmk : ∀ text, TextFits text → (mk text).WellFormed) : i.WellFormed := by
  unfold readFS at h
  split at h
  · next len tail =>
    split at h <;> cases h
    refine hmk _ ?_
    have := len.isLt
    simp only [TextFits, Config.textMax, List.length_take]
    omega
  · cases h

theorem readFT_wf {mk : Time → Instr} (h : readFT mk bs = some (i, rest))
    (hmk : ∀ now, (mk now).WellFormed) : i.WellFormed := by
  unfold readFT at h
  split at h <;> cases h
  exact hmk _

theorem readFC_wf {mk : Int → Int → Int → Int → Time → List Byte → Instr}
    (h : readFC mk bs = some (i, rest))
    (hmk : ∀ sc sr ec er d text, InSext8 sc → InSext8 sr → InSext8 ec → InSext8 er → TextFits text →
      (mk sc sr ec er d text).WellFormed) : i.WellFormed := by
  unfold readFC at h
  split at h
  · exact readFS_wf h fun text => hmk _ _ _ _ _ text (sext8_range _) (sext8_range _) (sext8_range _) (sext8_range _)
  · cases h

theorem decodeOperands_wf {op : Byte} (h : decodeOperands op bs = some (i, rest)) : i.WellFormed := by
  unfold decodeOperands at h
  split at h
  · exact readF2_wf h fun _ _ hc hr => decide_eq_true ⟨hc, hr⟩
  · exact readFN_wf h fun _ hn => decide_eq_true hn
  · exact readFS_wf h fun _ ht => decide_eq_true ht
  · exact readF1_wf h fun a => decide_eq_true (zext8_range a)
  · exact readF3_wf h fun _ _ _ hc hr hx => decide_eq_true ⟨hc, hr, hx⟩
  · exact readF2_wf h fun _ _ hc hr => decide_eq_true ⟨hc, hr⟩
  · cases h; rfl
  · cases h; rfl
  · cases h; rfl
  · cases h; rfl
  · cases h; rfl
  · exact readF1_wf h fun a => decide_eq_true (sext8_range a)
  · exact readFB_wf h fun _ _ _ hc hr hn => decide_eq_true ⟨hc, hr, hn⟩
  · exact readF3_wf h fun _ _ _ hc hr hx => decide_eq_true ⟨hc, hr, hx⟩
  · exact readFC_wf h fun _ _ _ _ _ _ hsc hsr hec her ht => decide_eq_true ⟨hsc, hsr, hec, her, ht⟩
  · exact readFT_wf h fun _ => rfl
  · exact readFS_wf h fun _ ht => decide_eq_true ht
  · cases h; rfl
  · cases h; rfl
  · cases h

/-- What the decoder accepts is well-formed (R82, R83). -/
theorem decode_wf (h : decode bs = .ok (i, rest)) : i.WellFormed := by
  cases bs with
  | nil => cases h
  | cons op bs =>
    simp only [decode] at h
    split at h
    · cases h
    · split at h <;> cases h
      next ho => exact decodeOperands_wf ho

end Sys2Proof
end

section
/-! PROOFS. Every step keeps every register legal (R21, R24 to R27, R30 to R34), one part of `Legal` at a time. -/

namespace Sys2Proof.Machine

theorem ofNat_mod_nCells_lt (n : Nat) : (BitVec.ofNat 8 (n % 160)).toNat < Config.nCells := by
  simp only [BitVec.toNat_ofNat, Config.nCells]
  omega

theorem drawGlyphCell_keeps_grid (p : Params) (d : Fin 10) (col row : Int) {s : State} (hs : CursorInGrid s)
    (cell : Fin 5 × Fin 3) : CursorInGrid (drawGlyphCell p d col row s cell) := by
  unfold drawGlyphCell
  dsimp only
  split
  · split
    · rw [writeBlockAt_eq]; exact cellAt_lt _ _
    · rw [writeCharAt_eq]; exact cellAt_lt _ _
  · exact hs

theorem drawDigit_keeps_grid (p : Params) (d : Fin 10) (col row : Int) {s : State} (hs : CursorInGrid s) :
    CursorInGrid (drawDigit p d col row s) :=
  List.foldlRecOn glyphCells _ hs fun _ ht cell _ => drawGlyphCell_keeps_grid p d col row ht cell

theorem drawNumber_keeps_grid (p : Params) (col row : Int) (number : Nat) {s : State} (hs : CursorInGrid s) :
    CursorInGrid (drawNumber p col row number s) :=
  List.foldlRecOn _ _ hs fun _ ht _ _ => drawDigit_keeps_grid p _ _ row ht

/-- The gate of SC_UPDATE is open only where a window is bound (R176). -/
theorem scBound_of_tickGate {now : Time} {s : State} (hg : tickGate now s = true) : s.scBound = true := by
  simp only [tickGate, Bool.and_eq_true] at hg
  exact hg.1.1

/-- Every command keeps CURSOR in the grid (R21); a tick and SC_SET_TEXT need the window to start in it. -/
theorem exec_keeps_grid {i : Instr} {s t : State} (hs : CursorInGrid s) (hw : ScrollLegal s)
    (h : exec i s = .next t) : CursorInGrid t := by
  cases i with
  | setCursor col row => cases h; exact cellAt_lt col row
  | advance n =>
    simp only [exec, execAdvance] at h
    split at h <;> cases h
    next ha =>
      simp only [Config.nCells] at ha
      rw [addrSet_eq]
      simp only [CursorInGrid, State.withCursor_cursor, BitVec.toNat_ofInt, Config.nCells]
      omega
  | writeText text =>
    cases h
    rw [textRun_eq _ _ _ hs]
    exact ofNat_mod_nCells_lt _
  | writeCharAt col row ch => cases h; rw [writeCharAt_eq]; exact cellAt_lt col row
  | writeBlockAt col row => cases h; rw [writeBlockAt_eq]; exact cellAt_lt col row
  | bigNumber col row number => cases h; exact drawNumber_keeps_grid params col row number hs
  | bigDigit col row digit =>
    simp only [exec, execBigDigit] at h
    split at h <;> cases h
    exact drawDigit_keeps_grid params _ col row hs
  | scUpdate now =>
    simp only [exec, execScUpdate] at h
    split at h <;> cases h
    · next hg =>
      rw [tick_eq params (s.withLastTick now) (hw (scBound_of_tickGate hg))]
      simp only [CursorInGrid, State.withPhase_cursor, State.withCursor_cursor, tickCursor]
      split <;> exact ofNat_mod_nCells_lt _
    · exact hs
  | scSetText text =>
    simp only [exec, execScSetText] at h
    split at h <;> cases h
    next hg =>
      rw [clearWindow_eq params (loadText text (s.withScEn false)) (hw hg).1]
      exact ofNat_mod_nCells_lt _
  | writeChar ch => have := cursorFrame _ s t h; rwa [CursorInGrid, this]
  | clear => rwa [CursorInGrid, cursorFrame _ s t h]
  | ciBegin => rwa [CursorInGrid, cursorFrame _ s t h]
  | ciShow => rwa [CursorInGrid, cursorFrame _ s t h]
  | ciHide => rwa [CursorInGrid, cursorFrame _ s t h]
  | pgBegin => rwa [CursorInGrid, cursorFrame _ s t h]
  | pgSelect page => rwa [CursorInGrid, cursorFrame _ s t h]
  | scConfig scol srow ecol erow delay text => rwa [CursorInGrid, cursorFrame _ s t h]
  | scEnable => rwa [CursorInGrid, cursorFrame _ s t h]
  | scDisable => rwa [CursorInGrid, cursorFrame _ s t h]

/-- Every protocol block ends with its strobe or CLR high again (R104, R105, R130). -/
theorem Block.keeps_strobes (b : Block) {s : State} (hs : StrobesIdle s) : StrobesIdle (s.emitAll b.events) := by
  obtain ⟨haddr, hchar, hclr⟩ := hs
  cases b <;>
    simp [Block.events, addrWriteEvents, charWriteEvents, clearEvents, State.emit, State.apply, haddr, hchar, hclr]

theorem blocks_keep_strobes (bs : List Block) {s : State} (hs : StrobesIdle s) :
    StrobesIdle (s.emitAll (blockEvents bs)) := by
  induction bs generalizing s with
  | nil => exact hs
  | cons b bs ih =>
    rw [blockEvents_cons, State.emitAll_append]
    exact ih (b.keeps_strobes hs)

theorem exec_keeps_strobes {i : Instr} {s t : State} (hs : StrobesIdle s) (h : exec i s = .next t) : StrobesIdle t := by
  obtain ⟨bs, hb⟩ := exec_byBlocks h
  rw [hb]
  exact blocks_keep_strobes bs hs

/-- BUS(b) sets the shift register and the serial lines together; no other event touches any of them (R101, R102). -/
theorem emit_keeps_serial {s : State} (hs : SerialLegal s) (e : Event) : SerialLegal (s.emit e) := by
  cases e with
  | bus b => exact ⟨rfl, rfl, rfl, rfl⟩
  | drive x v => cases x <;> exact hs
  | wait t => exact hs

theorem exec_keeps_serial {i : Instr} {s t : State} (hs : SerialLegal s) (h : exec i s = .next t) : SerialLegal t := by
  obtain ⟨bs, hb⟩ := exec_byBlocks h
  rw [hb]
  exact List.foldlRecOn (motive := SerialLegal) (blockEvents bs) State.emit hs fun _ ht e _ => emit_keeps_serial ht e

theorem Drive.toLevel_ne_undriven (v : Drive) : v.toLevel ≠ .undriven := by
  cases v <;> simp [Drive.toLevel]

/-- The optional lines are driven behind their gates, and the page lines together (R27); the other commands
write neither a gate nor a line (O38, O41). -/
theorem exec_keeps_optional {i : Instr} {s t : State} (hs : OptionalLinesLegal s) (h : exec i s = .next t) :
    OptionalLinesLegal t := by
  obtain ⟨hci, hpg, -, -⟩ := modeBitWriters i s t h
  obtain ⟨-, -, -, hind, hpages, -⟩ := lineWriters i s t h
  obtain ⟨hsind, hspages, hstogether⟩ := hs
  cases i with
  | ciBegin => cases h; exact ⟨nofun, hspages, hstogether⟩
  | pgBegin => cases h; exact ⟨hsind, nofun, hstogether⟩
  | ciShow =>
    cases exec_effect h with
    | writes hw _ => cases hw
    | gateClosed _ => exact ⟨hsind, hspages, hstogether⟩
    | ciShow hg => exact ⟨fun hn => absurd (hg.symm.trans hn) nofun, hspages, hstogether⟩
  | ciHide =>
    cases exec_effect h with
    | writes hw _ => cases hw
    | gateClosed _ => exact ⟨hsind, hspages, hstogether⟩
    | ciHide hg => exact ⟨fun hn => absurd (hg.symm.trans hn) nofun, hspages, hstogether⟩
  | pgSelect page =>
    cases exec_effect h with
    | writes hw _ => cases hw
    | gateClosed _ => exact ⟨hsind, hspages, hstogether⟩
    | pgSelect hg =>
      rw [emitAll_pageEvents]
      exact ⟨hsind, fun hn => absurd (hg.symm.trans hn) nofun,
        iff_of_false (Drive.toLevel_ne_undriven _) (Drive.toLevel_ne_undriven _)⟩
  | _ =>
    simp only [reduceCtorEq, decide_false, Bool.or_false, or_false, exists_false] at hci hpg hind hpages
    obtain ⟨hA, hB⟩ := hpages
    simpa only [OptionalLinesLegal, hci, hpg, hind, hA, hB] using ⟨hsind, hspages, hstogether⟩

/-- A text that fits its length field fills TEXT_LEN and starts at the top phase (R33, R34). -/
theorem loadText_windowLegal {text : List Byte} {s : State} (ht : TextFits text)
    (hs : s.areaStart.toNat < 160) (hw : 1 ≤ s.areaLen.toNat) (hsw : s.areaStart.toNat + s.areaLen.toNat ≤ 160) :
    WindowLegal (loadText text s) := by
  simp only [TextFits, Config.textMax] at ht
  have hlen : (BitVec.ofNat 8 text.length).toNat = text.length := by
    rw [BitVec.toNat_ofNat]
    omega
  refine ⟨hs, hw, hsw, hlen.symm, ?_⟩
  simp only [loadText, State.withPhase_phase, phaseTop_toNat]
  exact le_rfl

theorem WindowLegal.frame {s t : State} (h : WindowLegal s) (hr : SameScroll s t) : WindowLegal t := by
  obtain ⟨hstart, hlen, htext, htextLen, hphase, -, -⟩ := hr
  simpa only [WindowLegal, hstart, hlen, htext, htextLen, hphase] using h

/-- SC_CONFIG leaves a legal window (R170 to R172). -/
theorem configure_windowLegal {p : Params} {scol srow ecol erow : Int} {delay : Time} {text : List Byte}
    (ht : TextFits text) (s : State) : WindowLegal (configure p scol srow ecol erow delay text s) := by
  have hs := cellAt_lt scol srow
  obtain ⟨hw, hsw⟩ := winLen_bounds p (cellAt scol srow) ecol erow hs
  have hlen : (BitVec.ofNat 8 (winLen p (cellAt scol srow) ecol erow)).toNat =
      winLen p (cellAt scol srow) ecol erow := by
    rw [BitVec.toNat_ofNat]
    omega
  simp only [configure, WindowLegal]
  refine loadText_windowLegal ht hs ?_ ?_
  · exact hlen.symm ▸ hw
  · exact hlen.symm ▸ hsw

/-- A tick keeps the phase within `0..W + L` (R34, R178). -/
theorem stepPhase_windowLegal {s : State} (h : WindowLegal s) : WindowLegal (stepPhase s) := by
  obtain ⟨hs, hw, hsw, htext, hphase⟩ := h
  refine ⟨hs, hw, hsw, htext, ?_⟩
  simp only [stepPhase_eq, State.withPhase_phase, State.withPhase_areaLen, State.withPhase_textLen, nextPhase_toNat]
  split <;> omega

/-- Only the three commands that write a scroll register need an argument (O39). -/
theorem exec_keeps_scroll {i : Instr} {s t : State} (hi : i.WellFormed) (hs : ScrollLegal s) (h : exec i s = .next t) :
    ScrollLegal t := by
  obtain ⟨-, -, hbound, -⟩ := modeBitWriters i s t h
  have hscroll := scrollRegisterWriters i s t h
  cases i with
  | scConfig scol srow ecol erow delay text =>
    obtain ⟨-, -, -, -, ht⟩ := of_decide_eq_true hi
    cases h
    exact fun _ => configure_windowLegal ht s
  | scUpdate now =>
    cases exec_effect h with
    | writes hw _ => cases hw
    | gateClosed _ => exact hs
    | scUpdate _ hf =>
      rw [hf.frame]
      exact fun hb => stepPhase_windowLegal (hs hb)
  | scSetText text =>
    cases exec_effect h with
    | writes hw _ => cases hw
    | gateClosed hg => cases hg
    | scSetText hb hf =>
      rw [hf.frame]
      obtain ⟨hstart, hw, hsw, -⟩ := hs hb
      exact fun _ => loadText_windowLegal (of_decide_eq_true hi) hstart hw hsw
  | _ => exact fun hb => (hs ((Bool.or_false _).symm.trans (hbound.symm.trans hb))).frame hscroll

/-- Every well-formed command keeps every register legal. -/
theorem exec_keeps_legal {i : Instr} {s t : State} (hi : i.WellFormed) (hs : Legal s) (h : exec i s = .next t) :
    Legal t where
  cursor := exec_keeps_grid hs.cursor hs.scroll h
  strobes := exec_keeps_strobes hs.strobes h
  scroll := exec_keeps_scroll hi hs.scroll h
  optional := exec_keeps_optional hs.optional h
  serial := exec_keeps_serial hs.serial h

theorem Legal.withPort {s : State} (h : Legal s) (port : List Byte) : Legal { s with port := port } :=
  ⟨h.cursor, h.strobes, h.scroll, h.optional, h.serial⟩

/-- Settles O54: a step is idle, or takes a packet and runs its command, which the decoder makes well-formed. -/
theorem stepKeepsLegal : Obligations.StepKeepsLegal := by
  intro s t hs h
  obtain ⟨-, rfl⟩ | ⟨i, rest, hd, hi⟩ := step_next h
  · exact hs
  · exact exec_keeps_legal (decode_wf hd) (hs.withPort rest) hi

end Sys2Proof.Machine
end

section
/-! PROOFS. What the machine must not depend on (R29, U5 to U7, U10): two runs in lockstep. A relation that no event and no
register write breaks is kept by every command, so each noninterference statement is a relation of this kind. -/

namespace Sys2Proof.Machine

/-- A relation between two states that the engine cannot tell apart: they agree in CURSOR, in the gates and, where a
window is bound, in the scroll registers, and the relation outlasts every event and every register write. -/
structure Lockstep (R : State → State → Prop) : Prop where
  cursor {s t : State} : R s t → t.cursor = s.cursor
  ciEn {s t : State} : R s t → t.ciEn = s.ciEn
  pgEn {s t : State} : R s t → t.pgEn = s.pgEn
  scBound {s t : State} : R s t → t.scBound = s.scBound
  scEn {s t : State} : R s t → t.scEn = s.scEn
  scroll {s t : State} : R s t → s.scBound = true → SameScroll s t
  emit {s t : State} : R s t → ∀ e, R (s.emit e) (t.emit e)
  withCursor {s t : State} : R s t → ∀ a, R (s.withCursor a) (t.withCursor a)
  withCiEn {s t : State} : R s t → ∀ v, R (s.withCiEn v) (t.withCiEn v)
  withPgEn {s t : State} : R s t → ∀ v, R (s.withPgEn v) (t.withPgEn v)
  withScEn {s t : State} : R s t → ∀ v, R (s.withScEn v) (t.withScEn v)
  withLastTick {s t : State} : R s t → ∀ now, R (s.withLastTick now) (t.withLastTick now)
  withPhase {s t : State} : R s t → ∀ p, R (s.withPhase p) (t.withPhase p)
  withText {s t : State} : R s t → ∀ text, R (s.withText text) (t.withText text)
  configure {s t : State} : R s t → ∀ p scol srow ecol erow delay text,
    R (configure p scol srow ecol erow delay text s) (configure p scol srow ecol erow delay text t)

/-- Two gates that agree. -/
theorem ite_related {R : State → State → Prop} {s t s' t' : State} {c d : Bool} (hcd : d = c)
    (h' : c = true → R s' t') (h : R s t) : R (if c then s' else s) (if d then t' else t) := by
  subst hcd
  split
  · next hc => exact h' hc
  · exact h

section
variable {R : State → State → Prop} (hR : Lockstep R) {s t : State}
include hR

theorem Lockstep.emitAll (h : R s t) (es : List Event) : R (s.emitAll es) (t.emitAll es) := by
  induction es generalizing s t with
  | nil => exact h
  | cons e es ih => exact ih (hR.emit h e)

theorem Lockstep.writes {f : State → State} (hf : Writes f) (h : R s t) : R (f s) (f t) := by
  obtain ⟨es, a, -, hf⟩ := hf
  rw [hf, hf, hR.cursor h]
  exact hR.withCursor (hR.emitAll h _) _

/-- With a window bound, the two states have the same window to clear and draw in. -/
theorem Lockstep.tick (p : Params) (h : R s t) (hb : s.scBound = true) : R (tick p s) (tick p t) := by
  obtain ⟨f, hf, htick⟩ := tick_writes p s
  rw [htick s (sameScroll_refl s), htick t (hR.scroll h hb), stepPhase_eq, stepPhase_eq]
  have hfst := hR.writes hf h
  have hbf : (f s).scBound = true := by rw [hf.frame s]; exact hb
  obtain ⟨-, hlen, -, htextLen, hphase, -, -⟩ := hR.scroll hfst hbf
  rw [hlen, htextLen, hphase]
  exact hR.withPhase hfst _

theorem Lockstep.clearWindow (p : Params) (h : R s t) (hb : s.scBound = true) :
    R (clearWindow p s) (clearWindow p t) := by
  obtain ⟨f, hf, hclear⟩ := clearWindow_writes p s
  rw [hclear s (sameScroll_refl s), hclear t (hR.scroll h hb)]
  exact hR.writes hf h

theorem Lockstep.loadText (text : List Byte) (h : R s t) (hb : s.scBound = true) :
    R (loadText text s) (loadText text t) := by
  obtain ⟨-, hlen, -⟩ := hR.scroll h hb
  rw [Machine.loadText, Machine.loadText, hlen]
  exact hR.withPhase (hR.withText h text) _

theorem Lockstep.tickGate (now : Time) (h : R s t) : tickGate now t = tickGate now s := by
  unfold Machine.tickGate
  rw [hR.scBound h, hR.scEn h]
  cases hb : s.scBound with
  | false => rfl
  | true =>
    obtain ⟨-, -, -, -, -, hlast, hdelay⟩ := hR.scroll h hb
    rw [hlast, hdelay]

/-- A command has the same outcome from both states. -/
theorem Lockstep.sameOutcome (i : Instr) (h : R s t) : SameOutcome R (exec i s) (exec i t) := by
  cases i with
  | setCursor col row => exact hR.writes (Writes.setCursor col row) h
  | advance n =>
    simp only [exec, execAdvance, hR.cursor h]
    split
    · exact hR.writes (Writes.addrSet _) h
    · rfl
  | writeText text => exact hR.writes (Writes.textRun params text) h
  | writeChar ch => exact hR.writes (Writes.writeChar ch) h
  | writeCharAt col row ch => exact hR.writes (Writes.writeCharAt col row ch) h
  | writeBlockAt col row => exact hR.writes (Writes.writeBlockAt col row) h
  | clear => exact hR.emitAll h clearEvents
  | ciBegin => exact hR.withCiEn h true
  | ciShow => exact ite_related (hR.ciEn h) (fun _ => hR.emit h _) h
  | ciHide => exact ite_related (hR.ciEn h) (fun _ => hR.emit h _) h
  | pgBegin => exact hR.withPgEn h true
  | pgSelect page => exact ite_related (hR.pgEn h) (fun _ => hR.emitAll h _) h
  | bigNumber col row number => exact hR.writes (Writes.drawNumber params col row number) h
  | bigDigit col row digit =>
    simp only [exec, execBigDigit]
    split
    · exact hR.writes (Writes.drawDigit params _ col row) h
    · rfl
  | scConfig scol srow ecol erow delay text => exact hR.configure h params scol srow ecol erow delay text
  | scUpdate now =>
    exact ite_related (hR.tickGate now h)
      (fun hg => hR.tick params (hR.withLastTick h now) (scBound_of_tickGate (s := s) hg)) h
  | scSetText text =>
    have hbt := hR.scBound h
    cases hb : s.scBound with
    | false =>
      simp only [exec, execScSetText, windowGate, hbt, hb]
      rfl
    | true =>
      simp only [exec, execScSetText, windowGate, hbt, hb]
      exact hR.withScEn (hR.clearWindow params (hR.loadText text (hR.withScEn h false) hb) hb) true
  | scEnable => exact hR.withScEn h true
  | scDisable => exact hR.withScEn h false

end

/-- A step has the same outcome from both states, where they hold the same packets. -/
theorem Lockstep.step_sameOutcome {R : State → State → Prop} (hR : Lockstep R)
    (hport : ∀ {s t : State}, R s t → t.port = s.port)
    (htake : ∀ {s t : State}, R s t → ∀ rest, R { s with port := rest } { t with port := rest })
    {s t : State} (h : R s t) : SameOutcome R (step s) (step t) := by
  unfold step accept
  rw [hport h]
  cases decode s.port with
  | error e =>
    cases e with
    | noPacket => exact h
    | unassignedOpcode op => rfl
    | shortPacket op => rfl
  | ok r => exact hR.sameOutcome r.1 (htake h r.2)

/-- The host's side of a state changed: the level on BUSY and the bytes on the command port (R29, R209). -/
def State.mapHost (f : Level → Level) (g : List Byte → List Byte) (s : State) : State :=
  { s with busy := f s.busy, port := g s.port }

theorem State.emit_mapHost (f : Level → Level) (g : List Byte → List Byte) (s : State) (e : Event) :
    (s.mapHost f g).emit e = (s.emit e).mapHost f g := by
  cases e with
  | drive x v => cases x <;> rfl
  | _ => rfl

/-- No command reads or writes the host's side. -/
theorem lockstep_mapHost (f : Level → Level) (g : List Byte → List Byte) :
    Lockstep fun s t => t = s.mapHost f g where
  cursor := by rintro s _ rfl; rfl
  ciEn := by rintro s _ rfl; rfl
  pgEn := by rintro s _ rfl; rfl
  scBound := by rintro s _ rfl; rfl
  scEn := by rintro s _ rfl; rfl
  scroll := by rintro s _ rfl -; exact sameScroll_refl s
  emit := by rintro s _ rfl e; exact s.emit_mapHost f g e
  withCursor := by rintro s _ rfl a; rfl
  withCiEn := by rintro s _ rfl v; rfl
  withPgEn := by rintro s _ rfl v; rfl
  withScEn := by rintro s _ rfl v; rfl
  withLastTick := by rintro s _ rfl now; rfl
  withPhase := by rintro s _ rfl p; rfl
  withText := by rintro s _ rfl text; rfl
  configure := by rintro s _ rfl p scol srow ecol erow delay text; rw [configure_eq, configure_eq]; rfl

/-- Where the second state is a function of the first, so is the outcome. -/
theorem SameOutcome.eq_andThen {F : State → State} {o o' : Host.Outcome State Fault Refusal}
    (h : SameOutcome (fun s t => t = F s) o o') : o' = andThen o fun s => .next (F s) := by
  cases o with
  | next s =>
    cases o' with
    | next t => exact congrArg Host.Outcome.next h
    | fault r => cases h
    | refused r => cases h
  | fault r => cases h
  | refused r =>
    cases o' with
    | next t => cases h
    | fault r => cases h
    | refused r' => exact congrArg Host.Outcome.refused h.symm

/-- Settles O59: a step runs in lockstep with the step from the state whose BUSY is changed. -/
theorem busyIsNeverRead : Obligations.BusyIsNeverRead := by
  intro s v
  have h : SameOutcome _ (step s) (step (s.mapHost (fun _ => v) id)) :=
    (lockstep_mapHost (fun _ => v) id).step_sameOutcome (by rintro s _ rfl; rfl) (by rintro s _ rfl rest; rfl) rfl
  refine h.eq_andThen.trans ?_
  cases step s <;> rfl

/-- No command lets anything the spec leaves unspecified decide what it does (U5 to U7, U10): a line is driven
without being read, and a scroll register is read only where a window is bound. -/
theorem lockstep_sameBesidesUnspecified : Lockstep SameBesidesUnspecified where
  cursor h := by rw [h.same]
  ciEn h := by rw [h.same]
  pgEn h := by rw [h.same]
  scBound h := by rw [h.same]
  scEn h := by rw [h.same]
  scroll h hb := h.scroll hb
  emit := by
    rintro s t ⟨hsame, hind, hA, hB, hscroll⟩ e
    rw [hsame]
    cases e with
    | bus b => exact ⟨rfl, hind, hA, hB, hscroll⟩
    | wait d => exact ⟨rfl, hind, hA, hB, hscroll⟩
    | drive x v =>
      cases x with
      | addrStb => exact ⟨rfl, hind, hA, hB, hscroll⟩
      | charStb => exact ⟨rfl, hind, hA, hB, hscroll⟩
      | clr => exact ⟨rfl, hind, hA, hB, hscroll⟩
      | curInd => exact ⟨rfl, fun _ => rfl, hA, hB, hscroll⟩
      | pageA => exact ⟨rfl, hind, fun _ => rfl, hB, hscroll⟩
      | pageB => exact ⟨rfl, hind, hA, fun _ => rfl, hscroll⟩
  withCursor := by
    rintro s t ⟨hsame, hind, hA, hB, hscroll⟩ a
    exact ⟨by rw [hsame]; rfl, hind, hA, hB, hscroll⟩
  withCiEn := by
    rintro s t ⟨hsame, hind, hA, hB, hscroll⟩ v
    exact ⟨by rw [hsame]; rfl, hind, hA, hB, hscroll⟩
  withPgEn := by
    rintro s t ⟨hsame, hind, hA, hB, hscroll⟩ v
    exact ⟨by rw [hsame]; rfl, hind, hA, hB, hscroll⟩
  withScEn := by
    rintro s t ⟨hsame, hind, hA, hB, hscroll⟩ v
    exact ⟨by rw [hsame]; rfl, hind, hA, hB, hscroll⟩
  withLastTick := by
    rintro s t ⟨hsame, hind, hA, hB, hscroll⟩ now
    refine ⟨by rw [hsame]; rfl, hind, hA, hB, fun hb => ?_⟩
    obtain ⟨hstart, hlen, htext, htextLen, hphase, -, hdelay⟩ := hscroll hb
    exact ⟨hstart, hlen, htext, htextLen, hphase, rfl, hdelay⟩
  withPhase := by
    rintro s t ⟨hsame, hind, hA, hB, hscroll⟩ p
    refine ⟨by rw [hsame]; rfl, hind, hA, hB, fun hb => ?_⟩
    obtain ⟨hstart, hlen, htext, htextLen, -, hlast, hdelay⟩ := hscroll hb
    exact ⟨hstart, hlen, htext, htextLen, rfl, hlast, hdelay⟩
  withText := by
    rintro s t ⟨hsame, hind, hA, hB, hscroll⟩ text
    refine ⟨by rw [hsame]; rfl, hind, hA, hB, fun hb => ?_⟩
    obtain ⟨hstart, hlen, -, -, hphase, hlast, hdelay⟩ := hscroll hb
    exact ⟨hstart, hlen, rfl, rfl, hphase, hlast, hdelay⟩
  configure := by
    rintro s t ⟨hsame, hind, hA, hB, -⟩ p scol srow ecol erow delay text
    rw [configure_eq, configure_eq]
    exact ⟨by rw [hsame], hind, hA, hB, fun _ => ⟨rfl, rfl, rfl, rfl, rfl, rfl, rfl⟩⟩

/-- Settles O60: the two states hold the same packets and run in lockstep. -/
theorem unspecifiedValuesDoNotMatter : Obligations.UnspecifiedValuesDoNotMatter := by
  intro s t h
  refine lockstep_sameBesidesUnspecified.step_sameOutcome (fun h => by rw [h.same]) ?_ h
  rintro s t ⟨hsame, hind, hA, hB, hscroll⟩ rest
  exact ⟨by rw [hsame], hind, hA, hB, hscroll⟩

end Sys2Proof.Machine
end

section
/-! PROOFS. A packet decodes to its command (R80 to R83), so packets presented on a free port run as the commands, in
order (R28, R230). -/

namespace Sys2Proof

theorem sext8_byteOfInt {v : Int} (h : InSext8 v) : sext8 (byteOfInt v) = v :=
  BitVec.toInt_ofInt_eq_self (by decide) (by have := h.1; omega) (by have := h.2; omega)

theorem zext8_byteOfNat {v : Nat} (h : InZext8 v) : zext8 (byteOfNat v) = v := by
  simp only [zext8, byteOfNat, BitVec.toNat_ofNat]
  omega

theorem le16_extract (w : BitVec 16) : le16 (w.extractLsb' 0 8) (w.extractLsb' 8 8) = w := by
  rw [le16, BitVec.extractLsb'_append_extractLsb'_eq_extractLsb' (show 8 = 0 + 8 from rfl)]
  exact BitVec.extractLsb'_eq_self

theorem le32_extract (w : BitVec 32) :
    le32 (w.extractLsb' 0 8) (w.extractLsb' 8 8) (w.extractLsb' 16 8) (w.extractLsb' 24 8) = w := by
  rw [le32, BitVec.extractLsb'_append_extractLsb'_eq_extractLsb' (show 24 = 16 + 8 from rfl),
    BitVec.extractLsb'_append_extractLsb'_eq_extractLsb' (show 16 = 8 + 8 from rfl),
    BitVec.extractLsb'_append_extractLsb'_eq_extractLsb' (show 8 = 0 + 8 from rfl)]
  exact BitVec.extractLsb'_eq_self

/-- A 16-bit field holds an offset of its range (R82). -/
theorem toInt_ofInt16 {n : Int} (h : InSext16 n) : (BitVec.ofInt 16 n).toInt = n :=
  BitVec.toInt_ofInt_eq_self (by decide) (by have := h.1; omega) (by have := h.2; omega)

/-- A 16-bit field holds a number of its range (R82). -/
theorem toNat_ofNat16 {n : Nat} (h : InZext16 n) : (BitVec.ofNat 16 n).toNat = n := by
  simp only [BitVec.toNat_ofNat]
  omega

theorem readF1_sext8 (mk : Int → Instr) {a : Int} (ha : InSext8 a) (rest : List Byte) :
    readF1 (fun b => mk (sext8 b)) ([byteOfInt a] ++ rest) = some (mk a, rest) := by
  simp [readF1, sext8_byteOfInt ha]

theorem readF1_zext8 (mk : Nat → Instr) {a : Nat} (ha : InZext8 a) (rest : List Byte) :
    readF1 (fun b => mk (zext8 b)) ([byteOfNat a] ++ rest) = some (mk a, rest) := by
  simp [readF1, zext8_byteOfNat ha]

theorem readF2_bytes (mk : Int → Int → Instr) {c r : Int} (hc : InSext8 c) (hr : InSext8 r) (rest : List Byte) :
    readF2 mk ([byteOfInt c, byteOfInt r] ++ rest) = some (mk c r, rest) := by
  simp [readF2, sext8_byteOfInt hc, sext8_byteOfInt hr]

theorem readF3_bytes (mk : Int → Int → Nat → Instr) {c r : Int} {x : Nat} (hc : InSext8 c) (hr : InSext8 r)
    (hx : InZext8 x) (rest : List Byte) :
    readF3 mk ([byteOfInt c, byteOfInt r, byteOfNat x] ++ rest) = some (mk c r x, rest) := by
  simp [readF3, sext8_byteOfInt hc, sext8_byteOfInt hr, zext8_byteOfNat hx]

theorem readFN_bytes (mk : Int → Instr) {n : Int} (hn : InSext16 n) (rest : List Byte) :
    readFN mk (bytes16 (BitVec.ofInt 16 n) ++ rest) = some (mk n, rest) := by
  simp [readFN, bytes16, le16_extract, toInt_ofInt16 hn]

theorem readFB_bytes (mk : Int → Int → Nat → Instr) {c r : Int} {n : Nat} (hc : InSext8 c) (hr : InSext8 r)
    (hn : InZext16 n) (rest : List Byte) :
    readFB mk (byteOfInt c :: byteOfInt r :: bytes16 (BitVec.ofNat 16 n) ++ rest) = some (mk c r n, rest) := by
  simp [readFB, bytes16, le16_extract, sext8_byteOfInt hc, sext8_byteOfInt hr, toNat_ofNat16 hn]

theorem readFS_bytes (mk : List Byte → Instr) {text : List Byte} (ht : TextFits text) (rest : List Byte) :
    readFS mk (textBytes text ++ rest) = some (mk text, rest) := by
  simp [readFS, textBytes, Laws.PacketLength.len_byte ht]

theorem readFT_bytes (mk : Time → Instr) (now : Time) (rest : List Byte) :
    readFT mk (bytes32 now ++ rest) = some (mk now, rest) := by
  simp [readFT, bytes32, le32_extract]

theorem readFC_bytes (mk : Int → Int → Int → Int → Time → List Byte → Instr) {sc sr ec er : Int}
    (delay : Time) {text : List Byte} (hsc : InSext8 sc) (hsr : InSext8 sr) (hec : InSext8 ec) (her : InSext8 er)
    (ht : TextFits text) (rest : List Byte) :
    readFC mk
        (byteOfInt sc :: byteOfInt sr :: byteOfInt ec :: byteOfInt er :: (bytes32 delay ++ textBytes text) ++ rest) =
      some (mk sc sr ec er delay text, rest) := by
  simp [readFC, bytes32, le32_extract, sext8_byteOfInt hsc, sext8_byteOfInt hsr, sext8_byteOfInt hec,
    sext8_byteOfInt her, readFS_bytes _ ht]

/-- A packet of an assigned opcode is what its operand bytes say (R85). -/
theorem decode_cons {op : Byte} {bs : List Byte} {r : Instr × List Byte} (hop : (formatOf op).isSome = true)
    (hr : decodeOperands op bs = some r) : decode (op :: bs) = .ok r := by
  obtain ⟨f, hf⟩ := Option.isSome_iff_exists.mp hop
  simp only [decode, hf, hr]

/-- The packet of a well-formed command decodes to it and leaves what stands behind it (R80 to R83). -/
theorem decode_encode {i : Instr} (h : i.WellFormed) (rest : List Byte) :
    decode (encode i ++ rest) = .ok (i, rest) := by
  cases i with
  | setCursor col row =>
    obtain ⟨hc, hr⟩ := of_decide_eq_true h
    exact decode_cons rfl (readF2_bytes .setCursor hc hr rest)
  | advance n => exact decode_cons rfl (readFN_bytes .advance (of_decide_eq_true h) rest)
  | writeText text => exact decode_cons rfl (readFS_bytes .writeText (of_decide_eq_true h) rest)
  | writeChar ch => exact decode_cons rfl (readF1_zext8 .writeChar (of_decide_eq_true h) rest)
  | writeCharAt col row ch =>
    obtain ⟨hc, hr, hx⟩ := of_decide_eq_true h
    exact decode_cons rfl (readF3_bytes .writeCharAt hc hr hx rest)
  | writeBlockAt col row =>
    obtain ⟨hc, hr⟩ := of_decide_eq_true h
    exact decode_cons rfl (readF2_bytes .writeBlockAt hc hr rest)
  | clear => rfl
  | ciBegin => rfl
  | ciShow => rfl
  | ciHide => rfl
  | pgBegin => rfl
  | pgSelect page => exact decode_cons rfl (readF1_sext8 .pgSelect (of_decide_eq_true h) rest)
  | bigNumber col row number =>
    obtain ⟨hc, hr, hn⟩ := of_decide_eq_true h
    exact decode_cons rfl (readFB_bytes .bigNumber hc hr hn rest)
  | bigDigit col row digit =>
    obtain ⟨hc, hr, hx⟩ := of_decide_eq_true h
    exact decode_cons rfl (readF3_bytes .bigDigit hc hr hx rest)
  | scConfig scol srow ecol erow delay text =>
    obtain ⟨hsc, hsr, hec, her, ht⟩ := of_decide_eq_true h
    exact decode_cons rfl (readFC_bytes .scConfig delay hsc hsr hec her ht rest)
  | scUpdate now => exact decode_cons rfl (readFT_bytes .scUpdate now rest)
  | scSetText text => exact decode_cons rfl (readFS_bytes .scSetText (of_decide_eq_true h) rest)
  | scEnable => rfl
  | scDisable => rfl

end Sys2Proof

namespace Sys2Proof.Machine

theorem step_of_decode {s : State} {i : Instr} {rest : List Byte} (h : decode s.port = .ok (i, rest)) :
    step s = exec i { s with port := rest } := by
  simp only [step, accept, h]

theorem andThen_assoc (o : Host.Outcome State Fault Refusal) (f g : State → Host.Outcome State Fault Refusal) :
    andThen (andThen o f) g = andThen o fun s => andThen (f s) g := by
  cases o <;> rfl

/-- `core.run`, with the state and the reasons under their own names. -/
def runSteps (k : Nat) (s : State) : Host.Outcome State Fault Refusal := core.run k s

/-- Later steps start where the first one ends. -/
theorem runSteps_succ (k : Nat) (s : State) : runSteps (k + 1) s = andThen (step s) (runSteps k) := by
  cases hs : step s with
  | next t =>
    have hcore : core.step s = .next t := hs
    simp only [runSteps, Host.Core.run, hcore]
    rfl
  | fault r => cases r
  | refused r =>
    have hcore : core.step s = .refused r := hs
    simp only [runSteps, Host.Core.run, hcore]
    rfl

/-- Packets presented to a free port are what the port holds. -/
theorem present_eq_mapHost {s : State} (h : s.port = []) (bytes : List Byte) :
    present bytes s = s.mapHost id fun _ => bytes := by
  simp [present, State.mapHost, h]

theorem present_nil (s : State) : present [] s = s := by
  simp [present]

/-- A command runs the same with packets waiting behind it, and leaves them waiting (R230). -/
theorem exec_present (i : Instr) {s : State} (h : s.port = []) (bytes : List Byte) :
    exec i (present bytes s) = andThen (exec i s) fun t => .next (present bytes t) := by
  rw [present_eq_mapHost h, ((lockstep_mapHost id fun _ => bytes).sameOutcome i rfl).eq_andThen]
  cases ho : exec i s with
  | next t =>
    obtain ⟨bs, hb⟩ := exec_byBlocks ho
    exact congrArg Host.Outcome.next (present_eq_mapHost (hb.port.trans h) bytes).symm
  | fault r => rfl
  | refused r => rfl

/-- A step on a free port given a packet and more runs that packet's command and leaves the rest (R230). -/
theorem step_present {i : Instr} (hi : i.WellFormed) {s : State} (h : s.port = []) (bytes : List Byte) :
    step (present (encode i ++ bytes) s) = andThen (exec i s) fun t => .next (present bytes t) := by
  rw [← exec_present i h]
  have hport : (present (encode i ++ bytes) s).port = encode i ++ bytes := by simp [present, h]
  rw [step_of_decode (hport ▸ decode_encode hi bytes)]
  simp [present, h]

/-- Settles O7, by induction on the commands: the first step runs the first command and leaves the packets of the others
on a port that was free before. -/
theorem stepsRunHostCommandsInOrder : Obligations.StepsRunHostCommandsInOrder := by
  intro cmds s hcmds hs
  change runSteps cmds.length (present (cmds.flatMap encode) s) = runCommands cmds s
  induction cmds generalizing s with
  | nil => exact congrArg Host.Outcome.next (present_nil s)
  | cons i is ih =>
    obtain ⟨hi, his⟩ := List.forall_mem_cons.mp hcmds
    rw [List.length_cons, runSteps_succ, List.flatMap_cons, step_present hi hs, andThen_assoc, runCommands]
    cases ho : exec i s with
    | next t =>
      obtain ⟨bs, hb⟩ := exec_byBlocks ho
      exact ih t his (hb.port.trans hs)
    | fault r => rfl
    | refused r => rfl

end Sys2Proof.Machine
end

section
/-! PROOFS. What the surface and line commands do to the ghost model of the peripheral (R60 to R64): one rule for an
address write, one for a character write, and the commands as chains of the two. -/

namespace Sys2Proof.Machine

/-- The ghost after `AddrSet` (R61, R121). -/
theorem ghost_addrSet (a : Byte) (s : State) :
    (addrSet a s).ghost = { s.ghost with bus := .byte a, addrStb := .high, addr := .byte a } :=
  ((s.withCursor a).ghost_emitAll _).trans (Ghost.run_addrWriteEvents _ a)

theorem ghost_charWrite (b : Byte) (s : State) : (charWrite b s).ghost = s.ghost.run (charWriteEvents b) :=
  s.ghost_emitAll _

/-- The peripheral has latched CURSOR: the host duty of R231 as a text run needs it. -/
abbrev CursorLatched (s : State) : Prop := s.ghost.addr = .byte s.cursor

theorem addrSet_cursorLatched (a : Byte) (s : State) : CursorLatched (addrSet a s) := by
  unfold CursorLatched
  rw [ghost_addrSet, addrSet_eq]
  rfl

theorem setCursor_cursorLatched (col row : Int) (s : State) : CursorLatched (setCursor col row s) :=
  addrSet_cursorLatched _ s

/-- A character write samples no address (R62). -/
theorem charWrite_keeps_addr (b : Byte) (s : State) : (charWrite b s).ghost.addr = s.ghost.addr := by
  rw [ghost_charWrite, Ghost.run_charPulse]
  obtain ⟨f, hf⟩ := Ghost.storeChar_frame { s.ghost with bus := .byte b, charStb := .low }
  rw [hf]

theorem charWrite_cursor (b : Byte) (s : State) : (charWrite b s).cursor = s.cursor := s.emitAll_cursor _

theorem charWrite_setCursor_cursorLatched (b : Byte) (col row : Int) (s : State) :
    CursorLatched (charWrite b (setCursor col row s)) := by
  unfold CursorLatched
  rw [charWrite_keeps_addr, charWrite_cursor, setCursor_cursorLatched]

/-- An ADVANCE that completes is an `AddrSet` (R122). -/
theorem exec_advance {n : Int} {s t : State} (h : exec (.advance n) s = .next t) : ∃ a, t = addrSet a s := by
  simp only [exec, execAdvance] at h
  split at h <;> cases h
  exact ⟨_, rfl⟩

/-- Settles O44: each of the four sets the address, and the character two of them go on to write samples no other. -/
theorem positioningLatchesCursor : Obligations.PositioningLatchesCursor := by
  rintro col row n ch s t (h | h | h | h)
  · cases h
    exact setCursor_cursorLatched col row s
  · obtain ⟨a, rfl⟩ := exec_advance h
    exact addrSet_cursorLatched a s
  · cases h
    exact charWrite_setCursor_cursorLatched (enc (clampCh ch)) col row s
  · cases h
    exact charWrite_setCursor_cursorLatched (enc Config.chBlock) col row s

theorem addrSet_keeps_frame (a : Byte) (s : State) : (addrSet a s).ghost.frame = s.ghost.frame := by
  rw [ghost_addrSet]

theorem State.ghost_emit (s : State) (e : Event) : (s.emit e).ghost = s.ghost.next e := s.ghost_emitAll [e]

theorem emit_curInd_keeps_frame (v : Drive) (s : State) :
    (s.emit (.drive .curInd v)).ghost.frame = s.ghost.frame := by
  rw [State.ghost_emit]
  rfl

/-- The page lines select a page and change no cell (R64). -/
theorem emitAll_pageEvents_keeps_frame (page : Int) (s : State) :
    (s.emitAll (pageEvents page)).ghost.frame = s.ghost.frame := by
  rw [State.ghost_emitAll]
  rfl

/-- SC_CONFIG emits nothing (R170). -/
theorem ghost_configure (p : Params) (scol srow ecol erow : Int) (delay : Time) (text : List Byte) (s : State) :
    (configure p scol srow ecol erow delay text s).ghost = s.ghost := by
  rw [configure_eq]
  rfl

/-- Settles O45: of the writing commands SET_CURSOR and ADVANCE only write an address; the others emit at most drives of
optional lines. -/
theorem noCellWithoutCharacterWrite : Obligations.NoCellWithoutCharacterWrite := by
  intro i s t h
  cases exec_effect h with
  | writes hi hf =>
    cases i <;> simp [Instr.onlyWrites] at hi ⊢
    case setCursor col row =>
      rw [← Host.Outcome.next.inj h]
      exact addrSet_keeps_frame _ s
    case advance n =>
      obtain ⟨a, ha⟩ := exec_advance h
      rw [ha, addrSet_keeps_frame]
  | gateClosed hi => cases i <;> simp [Instr.gateClosed] at hi ⊢
  | clear => trivial
  | ciBegin => rfl
  | ciShow hg => exact emit_curInd_keeps_frame _ s
  | ciHide hg => exact emit_curInd_keeps_frame _ s
  | pgBegin => rfl
  | pgSelect hg => exact emitAll_pageEvents_keeps_frame _ s
  | scConfig => exact congrArg Ghost.frame (ghost_configure _ _ _ _ _ _ _ s)
  | scUpdate hg hf => trivial
  | scSetText hg hf => trivial
  | scEnable => rfl
  | scDisable => rfl

/-- `AddrSet` changes no cell (R61). -/
theorem Shows.addrSet (a : Byte) (s : State) : Shows (fun _ => none) s.ghost (addrSet a s).ghost := by
  rw [ghost_addrSet]
  exact ⟨rfl, rfl, fun _ => rfl, fun _ _ _ _ => rfl⟩

/-- `CharWrite` shows its code in the latched cell (R62). -/
theorem Shows.charWrite_latched {s : State} {a : Byte} (ha : s.ghost.addr = .byte a) (h : a.toNat < 160) {code : Nat}
    (hc : code ≤ 127) : Shows (cellShown a.toNat code) s.ghost (Machine.charWrite (enc code) s).ghost := by
  rw [ghost_charWrite]
  exact Shows.charWrite s.ghost a code ha h hc

/-- `CharWrite` after SET_CURSOR shows its code in the cell of CURSOR (R128, R129). -/
theorem Shows.charWrite_setCursor {col row : Int} {s t : State} {code : Nat} (hc : code ≤ 127)
    (ht : t = Machine.charWrite (enc code) (setCursor col row s)) :
    Shows (cellShown t.cursor.toNat code) s.ghost t.ghost := by
  subst ht
  have hgrid : (setCursor col row s).cursor.toNat < 160 := by
    rw [setCursor_eq]
    exact cellAt_lt col row
  have hshow := (Shows.addrSet (cellAt col row) s).trans
    (Shows.charWrite_latched (setCursor_cursorLatched col row s) hgrid hc)
  simpa [charWrite_cursor] using hshow

/-- WRITE_CHAR_AT is one character write after SET_CURSOR (R128). -/
theorem writeCharAt_eq_charWrite (col row : Int) (ch : Nat) (s : State) :
    writeCharAt col row ch s = charWrite (enc (clampCh ch)) (setCursor col row s) := rfl

/-- The character clamp, in numbers (R74). -/
theorem clampCh_natCast (ch : Nat) : clampCh ch = min 126 (max 32 ch) := by
  have := clampCh_eq ch
  omega

/-- Settles O46: WRITE_CHAR is one character write, and the other two position it first. -/
theorem characterLandsInOneCell : Obligations.CharacterLandsInOneCell := by
  refine ⟨fun ch s a ha h => ⟨_, rfl, ?_⟩, fun col row ch s => ⟨_, rfl, ?_⟩, fun col row s => ⟨_, rfl, ?_⟩⟩
  · rw [← clampCh_natCast]
    exact Shows.charWrite_latched ha h (Nat.le_succ_of_le (clampCh_bounds ch).2)
  · rw [← clampCh_natCast]
    exact Shows.charWrite_setCursor (Nat.le_succ_of_le (clampCh_bounds ch).2)
      (writeCharAt_eq_charWrite col row ch s)
  · exact Shows.charWrite_setCursor (code := Config.chBlock) le_rfl rfl

/-- The character strobe with no cell latched (R62). -/
theorem Ghost.storeChar_undriven {g : Ghost} (h : g.addr = .undriven) :
    g.storeChar = g.setVisible fun _ => .unknown := by
  unfold Ghost.storeChar
  rw [h]
  cases g.bus <;> rfl

/-- The selected page replaced: each of its cells shows the new page, every other page is as before. -/
theorem Shows.setVisible (g : Ghost) (page : Nat → CellView) :
    Shows (fun a => some (page a)) g (g.setVisible page) where
  selA := rfl
  selB := rfl
  cells a := by simp [Ghost.visible, Ghost.setVisible]
  hidden x y a hn := if_neg fun ⟨hx, hy⟩ => hn (by rw [hx, hy])

/-- `CharWrite` with no cell latched leaves nothing known of the selected page (R62). -/
theorem Shows.charWrite_undriven {s : State} (h : s.ghost.addr = .undriven) (b : Byte) :
    Shows (fun _ => some .unknown) s.ghost (Machine.charWrite b s).ghost := by
  have hstore := Ghost.storeChar_undriven (g := { s.ghost with bus := .byte b, charStb := .low }) h
  rw [ghost_charWrite, Ghost.run_charPulse, hstore]
  obtain ⟨hA, hB, hcells, hhidden⟩ := Shows.setVisible s.ghost fun _ => .unknown
  exact ⟨hA, hB, hcells, hhidden⟩

/-- Settles O47: WRITE_CHAR is one character write, which samples no address. -/
theorem unpositionedWriteLosesPage : Obligations.UnpositionedWriteLosesPage := fun _ s h =>
  ⟨_, rfl, Shows.charWrite_undriven h _, (charWrite_keeps_addr _ s).trans h⟩

/-- A text character whose address is sent again is a character write and an `AddrSet` (R125). -/
theorem textPut_eq_addrSet {p : Params} (hp : p.textAddrAfterEach = true) (s : State) (ch : Byte) :
    textPut p s ch = addrSet (nextCell s.cursor) (charWrite (enc (disp ch.toNat)) s) := by
  simp only [textPut, charWrite_cursor, hp]
  rfl

/-- The first character of a text run stays in its cell unless the run comes round to it, 160 characters on; the others
are a run from the next cell (R124). -/
theorem textShown_cons {a : Nat} (ha : a < 160) (b : Byte) (text : List Byte) (x : Nat) :
    (textShown ((a + 1) % 160) text x).or (cellShown a (disp b.toNat) x) = textShown a (b :: text) x := by
  simp only [textShown, cellShown, List.length_cons]
  rcases Nat.lt_or_ge x 160 with hx | hx
  · by_cases hxa : x = a
    · subst hxa
      rw [show (x + 160 - x) % 160 = 0 by omega, show (x + 160 - (x + 1) % 160) % 160 = 159 by omega]
      rcases Nat.lt_or_ge 159 text.length with hlong | hshort
      · have hidx : 0 + 160 * ((text.length + 1 - 1 - 0) / 160) =
            159 + 160 * ((text.length - 1 - 159) / 160) + 1 := by omega
        rw [hidx, List.getD_cons_succ]
        simp [hx, hlong]
      · have hidx : 0 + 160 * ((text.length + 1 - 1 - 0) / 160) = 0 := by omega
        rw [hidx, List.getD_cons_zero]
        simp [hx, Nat.not_lt.mpr hshort]
    · rw [show (x + 160 - a) % 160 = (x + 160 - (a + 1) % 160) % 160 + 1 by omega]
      generalize (x + 160 - (a + 1) % 160) % 160 = k
      have hidx : k + 1 + 160 * ((text.length + 1 - 1 - (k + 1)) / 160) =
          k + 160 * ((text.length - 1 - k) / 160) + 1 := by omega
      rw [hidx, List.getD_cons_succ, if_neg hxa]
      simp
  · simp [Nat.not_lt.mpr hx, show x ≠ a by omega]

/-- A text run whose address is sent again after each character, from a latched CURSOR (R124, R125). -/
theorem Shows.textRun {p : Params} (hp : p.textAddrAfterEach = true) (text : List Byte) {s : State}
    (hgrid : CursorInGrid s) (hs : CursorLatched s) :
    Shows (textShown s.cursor.toNat text) s.ghost (textRun p text s).ghost ∧ CursorLatched (textRun p text s) := by
  induction text generalizing s with
  | nil =>
    have hnil : textShown s.cursor.toNat [] = fun _ => none := funext fun x => by simp [textShown]
    exact ⟨hnil ▸ Shows.refl _, hs⟩
  | cons b text ih =>
    have hput := textPut_eq_addrSet hp s b
    have hcursor : (textPut p s b).cursor = nextCell s.cursor := by rw [textPut_eq]; rfl
    have hfirst : Shows (cellShown s.cursor.toNat (disp b.toNat)) s.ghost (textPut p s b).ghost := by
      rw [hput]
      simpa using (Shows.charWrite_latched hs hgrid (Nat.le_succ_of_le (disp_bounds _).2)).trans (Shows.addrSet _ _)
    obtain ⟨hrest, hlatched⟩ := ih (s := textPut p s b)
      (by rw [CursorInGrid, hcursor]; exact nextCell_lt _ hgrid) (by rw [hput]; exact addrSet_cursorLatched _ _)
    rw [hcursor, nextCell_toNat _ hgrid] at hrest
    exact ⟨funext (textShown_cons hgrid b text) ▸ hfirst.trans hrest, hlatched⟩

/-- Settles O48: the host duty leaves CURSOR latched, and the run latches each cell before it writes it. -/
theorem textShownAtItsCells : Obligations.TextShownAtItsCells := fun text _ hgrid hlatched hpos =>
  ⟨_, rfl, Shows.textRun (p := params) rfl text hgrid (hlatched.resolve_left hpos)⟩

/-- Settles O9: the registers are what `State.reset` writes, the ghost is `Ghost.initial`, the reading of no event. -/
theorem resetState : Obligations.ResetState :=
  ⟨rfl, rfl, rfl, rfl, rfl, rfl, rfl, rfl, rfl, rfl, rfl, rfl, rfl, rfl, rfl, rfl, rfl, rfl, rfl, fun _ _ _ => rfl⟩

/-- CLR falls and rises, whatever it was before: one clear pulse (R63, R130). -/
theorem Ghost.run_clearEvents (g : Ghost) : g.run clearEvents = { g.clearAll with clr := .high } := by
  simp [Ghost.run, clearEvents, Ghost.next, Ghost.clearAll]

/-- Settles O49: CLEAR is one clear pulse. -/
theorem clearClearsSelectedPage : Obligations.ClearClearsSelectedPage := by
  intro s
  have hg : (s.emitAll clearEvents).ghost = { s.ghost.clearAll with clr := .high } :=
    (s.ghost_emitAll _).trans (Ghost.run_clearEvents _)
  exact ⟨_, rfl, by rw [hg]; exact ⟨rfl, rfl, rfl, fun _ _ _ => rfl⟩⟩

end Sys2Proof.Machine
end

section
/-! PROOFS. The packets (R80 to R86): what the decoder accepts is the packet of the command it answers, and it accepts
exactly the streams that hold the whole packet of an assigned opcode. -/

namespace Sys2Proof

theorem byteOfInt_sext8 (b : Byte) : byteOfInt (sext8 b) = b := BitVec.ofInt_toInt

theorem byteOfNat_zext8 (b : Byte) : byteOfNat (zext8 b) = b := (BitVec.ofNat_toNat 8 b).trans b.setWidth_eq

theorem bytes16_le16 (lo hi : Byte) : bytes16 (le16 lo hi) = [lo, hi] := by
  rw [bytes16, le16, BitVec.extractLsb'_append_eq_right, BitVec.extractLsb'_append_eq_left]

theorem bytes32_le32 (b0 b1 b2 b3 : Byte) : bytes32 (le32 b0 b1 b2 b3) = [b0, b1, b2, b3] := by
  rw [bytes32, le32, BitVec.extractLsb'_append_eq_right,
    BitVec.extractLsb'_append_eq_of_le (show 8 ≤ 8 from le_rfl), BitVec.extractLsb'_append_eq_right,
    BitVec.extractLsb'_append_eq_of_le (show 8 ≤ 16 by decide),
    BitVec.extractLsb'_append_eq_of_le (show 8 ≤ 16 - 8 by decide), BitVec.extractLsb'_append_eq_right,
    BitVec.extractLsb'_append_eq_of_le (show 8 ≤ 24 by decide),
    BitVec.extractLsb'_append_eq_of_le (show 8 ≤ 24 - 8 by decide), BitVec.extractLsb'_append_eq_left]

theorem textBytes_take {len : Byte} {bs : List Byte} (h : len.toNat ≤ bs.length) :
    textBytes (bs.take len.toNat) = len :: bs.take len.toNat := by
  rw [textBytes, List.length_take_of_le h]
  exact congrArg (· :: _) (byteOfNat_zext8 len)

section
variable {i : Instr} {op : Byte} {bs rest : List Byte}

theorem readF0_encode {mk : Instr} (h : readF0 mk bs = some (i, rest)) (hmk : encode mk = [op]) :
    op :: bs = encode i ++ rest := by
  cases h
  rw [hmk]; rfl

theorem readF1_sext8_encode {mk : Int → Instr} (h : readF1 (fun a => mk (sext8 a)) bs = some (i, rest))
    (hmk : ∀ a, encode (mk a) = [op, byteOfInt a]) : op :: bs = encode i ++ rest := by
  unfold readF1 at h
  split at h <;> cases h
  simp [hmk, byteOfInt_sext8]

theorem readF1_zext8_encode {mk : Nat → Instr} (h : readF1 (fun a => mk (zext8 a)) bs = some (i, rest))
    (hmk : ∀ a, encode (mk a) = [op, byteOfNat a]) : op :: bs = encode i ++ rest := by
  unfold readF1 at h
  split at h <;> cases h
  simp [hmk, byteOfNat_zext8]

theorem readF2_encode {mk : Int → Int → Instr} (h : readF2 mk bs = some (i, rest))
    (hmk : ∀ c r, encode (mk c r) = [op, byteOfInt c, byteOfInt r]) : op :: bs = encode i ++ rest := by
  unfold readF2 at h
  split at h <;> cases h
  simp [hmk, byteOfInt_sext8]

theorem readF3_encode {mk : Int → Int → Nat → Instr} (h : readF3 mk bs = some (i, rest))
    (hmk : ∀ c r x, encode (mk c r x) = [op, byteOfInt c, byteOfInt r, byteOfNat x]) :
    op :: bs = encode i ++ rest := by
  unfold readF3 at h
  split at h <;> cases h
  simp [hmk, byteOfInt_sext8, byteOfNat_zext8]

theorem readFN_encode {mk : Int → Instr} (h : readFN mk bs = some (i, rest))
    (hmk : ∀ n, encode (mk n) = op :: bytes16 (BitVec.ofInt 16 n)) : op :: bs = encode i ++ rest := by
  unfold readFN at h
  split at h <;> cases h
  simp [hmk, bytes16_le16]

theorem readFB_encode {mk : Int → Int → Nat → Instr} (h : readFB mk bs = some (i, rest))
    (hmk : ∀ c r n, encode (mk c r n) = op :: byteOfInt c :: byteOfInt r :: bytes16 (BitVec.ofNat 16 n)) :
    op :: bs = encode i ++ rest := by
  unfold readFB at h
  split at h <;> cases h
  simp [hmk, byteOfInt_sext8, bytes16_le16]

/-- Stated for any bytes `pre` before the text, which FC has and FS has not. -/
theorem readFS_encode {mk : List Byte → Instr} {pre : List Byte} (h : readFS mk bs = some (i, rest))
    (hmk : ∀ text, encode (mk text) = pre ++ textBytes text) : pre ++ bs = encode i ++ rest := by
  unfold readFS at h
  split at h
  · split at h <;> cases h
    next hlen => simp [hmk, textBytes_take hlen]
  · cases h

theorem readFT_encode {mk : Time → Instr} (h : readFT mk bs = some (i, rest))
    (hmk : ∀ now, encode (mk now) = op :: bytes32 now) : op :: bs = encode i ++ rest := by
  unfold readFT at h
  split at h <;> cases h
  simp [hmk, bytes32_le32]

theorem readFC_encode {mk : Int → Int → Int → Int → Time → List Byte → Instr} (h : readFC mk bs = some (i, rest))
    (hmk : ∀ sc sr ec er d text, encode (mk sc sr ec er d text) =
      op :: byteOfInt sc :: byteOfInt sr :: byteOfInt ec :: byteOfInt er :: (bytes32 d ++ textBytes text)) :
    op :: bs = encode i ++ rest := by
  unfold readFC at h
  split at h
  · next sc sr ec er d0 d1 d2 d3 tail =>
    exact readFS_encode (pre := [op, sc, sr, ec, er, d0, d1, d2, d3]) h
      fun text => by simp [hmk, byteOfInt_sext8, bytes32_le32]
  · cases h

/-- The operand bytes the decoder accepts are those of the command it answers (R81 to R83). -/
theorem decodeOperands_encode (h : decodeOperands op bs = some (i, rest)) : op :: bs = encode i ++ rest := by
  rw [← byteOfNat_zext8 op]
  unfold zext8
  unfold decodeOperands at h
  generalize op.toNat = n at *
  split at h
  · exact readF2_encode h fun _ _ => rfl
  · exact readFN_encode h fun _ => rfl
  · exact readFS_encode (pre := [_]) h fun _ => rfl
  · exact readF1_zext8_encode h fun _ => rfl
  · exact readF3_encode h fun _ _ _ => rfl
  · exact readF2_encode h fun _ _ => rfl
  · exact readF0_encode h rfl
  · exact readF0_encode h rfl
  · exact readF0_encode h rfl
  · exact readF0_encode h rfl
  · exact readF0_encode h rfl
  · exact readF1_sext8_encode h fun _ => rfl
  · exact readFB_encode h fun _ _ _ => rfl
  · exact readF3_encode h fun _ _ _ => rfl
  · exact readFC_encode h fun _ _ _ _ _ _ => rfl
  · exact readFT_encode h fun _ => rfl
  · exact readFS_encode (pre := [_]) h fun _ => rfl
  · exact readF0_encode h rfl
  · exact readF0_encode h rfl
  · cases h

/-- What the decoder accepts is the packet of the command it answers (R80 to R83). -/
theorem encode_decode (h : decode bs = .ok (i, rest)) : bs = encode i ++ rest := by
  cases bs with
  | nil => cases h
  | cons op bs =>
    simp only [decode] at h
    split at h
    · cases h
    · split at h <;> cases h
      next ho => exact decodeOperands_encode ho

end

/-- Settles O1: a round trip through the packet, format by format. -/
theorem decodeOfEncode : Obligations.DecodeOfEncode := fun _ rest h => decode_encode h rest

/-- Settles O2: the round trip the other way, format by format. -/
theorem encodeOfDecode : Obligations.EncodeOfDecode := fun _ _ _ h => ⟨decode_wf h, encode_decode h⟩

/-- The operand bytes of a packet of this format, before the stream of them (R80, R85). -/
def Format.operandLength : Format → List Byte → Nat
  | .f0, _ => 0
  | .f1, _ => 1
  | .f2, _ => 2
  | .f3, _ => 3
  | .fn, _ => 2
  | .fb, _ => 4
  | .fs, bs => (bs.getD 0 0).toNat + 1
  | .ft, _ => 4
  | .fc, bs => (bs.getD 8 0).toNat + 9

/-- A packet is its opcode and its operand bytes. -/
theorem packetLength_cons {op : Byte} {f : Format} (h : formatOf op = some f) (bs : List Byte) :
    packetLength (op :: bs) = f.operandLength bs + 1 := by
  simp only [packetLength, h]
  cases f <;> simp only [Format.operandLength] <;> omega

/-- The reader accepts exactly the streams with all the operand bytes of the format, and takes exactly these (R84). -/
def TakesOperands (f : Format) (read : List Byte → Option (Instr × List Byte)) : Prop :=
  ∀ bs, if bs.length < f.operandLength bs then read bs = none
    else ∃ i, read bs = some (i, bs.drop (f.operandLength bs))

theorem readF0_takes (i : Instr) : TakesOperands .f0 (readF0 i) := fun _ => ⟨i, rfl⟩

theorem readF1_takes (mk : Byte → Instr) : TakesOperands .f1 (readF1 mk) := by
  rintro (_ | ⟨a, rest⟩) <;> simp [Format.operandLength, readF1]

theorem readF2_takes (mk : Int → Int → Instr) : TakesOperands .f2 (readF2 mk) := by
  rintro (_ | ⟨c, _ | ⟨r, rest⟩⟩) <;> simp [Format.operandLength, readF2]

theorem readF3_takes (mk : Int → Int → Nat → Instr) : TakesOperands .f3 (readF3 mk) := by
  rintro (_ | ⟨c, _ | ⟨r, _ | ⟨x, rest⟩⟩⟩) <;> simp [Format.operandLength, readF3]

theorem readFN_takes (mk : Int → Instr) : TakesOperands .fn (readFN mk) := by
  rintro (_ | ⟨lo, _ | ⟨hi, rest⟩⟩) <;> simp [Format.operandLength, readFN]

theorem readFB_takes (mk : Int → Int → Nat → Instr) : TakesOperands .fb (readFB mk) := by
  rintro (_ | ⟨c, _ | ⟨r, _ | ⟨lo, _ | ⟨hi, rest⟩⟩⟩⟩) <;> simp [Format.operandLength, readFB]

theorem readFT_takes (mk : Time → Instr) : TakesOperands .ft (readFT mk) := by
  rintro (_ | ⟨b0, _ | ⟨b1, _ | ⟨b2, _ | ⟨b3, rest⟩⟩⟩⟩) <;> simp [Format.operandLength, readFT]

theorem readFS_takes (mk : List Byte → Instr) : TakesOperands .fs (readFS mk) := by
  rintro (_ | ⟨len, bs⟩)
  · simp [Format.operandLength, readFS]
  · by_cases h : len.toNat ≤ bs.length
    · simp [Format.operandLength, readFS, h]
    · simp [Format.operandLength, readFS, h, Nat.lt_of_not_le h]

theorem readFC_takes (mk : Int → Int → Int → Int → Time → List Byte → Instr) : TakesOperands .fc (readFC mk) := by
  rintro (_ | ⟨sc, _ | ⟨sr, _ | ⟨ec, _ | ⟨er, _ | ⟨d0, _ | ⟨d1, _ | ⟨d2, _ | ⟨d3, rest⟩⟩⟩⟩⟩⟩⟩⟩)
  case cons.cons.cons.cons.cons.cons.cons.cons =>
    simpa [Format.operandLength, readFC] using
      readFS_takes (mk (sext8 sc) (sext8 sr) (sext8 ec) (sext8 er) (le32 d0 d1 d2 d3)) rest
  all_goals simp [Format.operandLength, readFC]

theorem decodeOperands_takes {op : Byte} {f : Format} (h : formatOf op = some f) :
    TakesOperands f (decodeOperands op) := by
  unfold formatOf at h
  unfold decodeOperands
  generalize op.toNat = n at *
  split at h <;> cases h
  · exact readF2_takes .setCursor
  · exact readFN_takes .advance
  · exact readFS_takes .writeText
  · exact readF1_takes fun a => .writeChar (zext8 a)
  · exact readF3_takes .writeCharAt
  · exact readF2_takes .writeBlockAt
  · exact readF0_takes .clear
  · exact readF0_takes .ciBegin
  · exact readF0_takes .ciShow
  · exact readF0_takes .ciHide
  · exact readF0_takes .pgBegin
  · exact readF1_takes fun a => .pgSelect (sext8 a)
  · exact readFB_takes .bigNumber
  · exact readF3_takes .bigDigit
  · exact readFC_takes .scConfig
  · exact readFT_takes .scUpdate
  · exact readFS_takes .scSetText
  · exact readF0_takes .scEnable
  · exact readF0_takes .scDisable

/-- The opcodes without a command (R84). -/
theorem formatOf_eq_none_iff (op : Byte) :
    formatOf op = none ↔ op.toNat = 0 ∨ op.toNat = 0x0F ∨ 0x15 ≤ op.toNat := by
  unfold formatOf
  generalize op.toNat = n
  split
  case h_20 =>
    simp only [imp_false, true_iff] at *
    omega
  all_goals simp

theorem decode_unassigned {op : Byte} (h : formatOf op = none) (bs : List Byte) :
    decode (op :: bs) = .error (.unassignedOpcode op) := by
  simp only [decode, h]

theorem decode_short {op : Byte} {f : Format} {bs : List Byte} (h : formatOf op = some f)
    (ho : decodeOperands op bs = none) : decode (op :: bs) = .error (.shortPacket op) := by
  simp only [decode, h, ho]

/-- Settles O3: the opcode gives the format, and the format's reader accepts exactly the streams long enough for it. -/
theorem decodeByOpcodeAndLength : Obligations.DecodeByOpcodeAndLength := by
  intro op bs
  simp only [← formatOf_eq_none_iff]
  cases hf : formatOf op with
  | none => exact decode_unassigned hf bs
  | some f =>
    have htakes := decodeOperands_takes hf bs
    rw [packetLength_cons hf, List.drop_succ_cons, List.length_cons, if_neg nofun]
    simp only [Nat.add_lt_add_iff_right]
    split at htakes
    · next hshort => rw [if_pos hshort]; exact decode_short hf htakes
    · next hlong =>
      obtain ⟨i, hi⟩ := htakes
      rw [if_neg hlong]
      exact ⟨i, decode_cons (Option.isSome_of_eq_some hf) hi⟩

/-- A stream that is just the packet of a well-formed command. -/
theorem decode_packet {i : Instr} {bytes : List Byte} (hi : i.WellFormed) (hb : encode i = bytes) :
    decode bytes = .ok (i, []) := by
  have := decode_encode hi []
  rwa [List.append_nil, hb] at this

/-- Settles O4: each is the packet of its command. -/
theorem writtenPacketsDecode : Obligations.WrittenPacketsDecode :=
  ⟨decode_packet rfl rfl, decode_packet rfl rfl, decode_packet rfl rfl, decode_packet rfl rfl, decode_packet rfl rfl,
    decode_packet rfl rfl, decode_packet rfl rfl⟩

end Sys2Proof

namespace Sys2Proof.Machine

/-- Settles O5: `accept` takes the packet and `step` runs what it holds. -/
theorem stepRunsDecodedCommand : Obligations.StepRunsDecodedCommand := fun _ _ _ h _ => step_of_decode h

theorem step_of_decode_error {s : State} {e : DecodeError} (h : decode s.port = .error e) :
    step s = match e with
      | .noPacket => .next s
      | .unassignedOpcode op => .refused (.unassignedOpcode op)
      | .shortPacket op => .refused (.shortPacket op) := by
  simp only [step, accept, h]
  cases e <;> rfl

/-- Settles O6: each error of the decoder is its own outcome of the step. -/
theorem stepWithoutCommand : Obligations.StepWithoutCommand :=
  ⟨fun s h => step_of_decode_error (e := .noPacket) (by rw [h]; rfl), fun _ _ h => step_of_decode_error h,
    fun _ _ h => step_of_decode_error h⟩

end Sys2Proof.Machine
end

section
/-! PROOFS. The address decoder and the character encoder (R70 to R73), and BIG_NUMBER as the commands of its digits
(R87, R155). -/

namespace Sys2Proof.Machine

theorem colOf_eq (a : Byte) : colOf a = a.toNat % 16 := by
  rw [colOf, BitVec.toNat_and]
  exact Nat.and_two_pow_sub_one_eq_mod a.toNat 4

theorem rowOf_eq (a : Byte) : rowOf a = a.toNat / 16 := by
  rw [rowOf, BitVec.toNat_ushiftRight]
  exact Nat.shiftRight_eq_div_pow a.toNat 4

/-- Settles O10: the clamp leaves a grid position alone, and the address is `16 * r + c`. -/
theorem addressDecodeRecoversPosition : Obligations.AddressDecodeRecoversPosition := by
  intro c r s hc hr
  have hcell : (cellAt c r).toNat = 16 * r + c := by
    have := cellAt_toNat c r
    have := clampCol_eq c
    have := clampRow_eq r
    omega
  have hcursor : (setCursor c r s).cursor = cellAt c r := by rw [setCursor_eq]; rfl
  refine ⟨setCursor c r s, rfl, ?_⟩
  rw [hcursor, colOf_eq, rowOf_eq, hcell]
  omega

/-- Settles O11: complementing twice is subtracting from 127 twice. -/
theorem characterEncoderIsInvolution : Obligations.CharacterEncoderIsInvolution := by
  intro code h
  refine ⟨enc_toNat code h, by simp [enc], ?_⟩
  rw [enc_toNat code h, enc_eq _ (Nat.sub_le 127 code), Nat.sub_sub_self h]

theorem exec_bigDigit (col row : Int) (d : Fin 10) (s : State) :
    exec (.bigDigit col row d) s = .next (drawDigit params d col row s) := dif_pos d.isLt

/-- BIG_DIGIT commands one after another draw their digits in turn (R157). -/
theorem runCommands_bigDigits (col row : Int) (digits : List (Fin 10 × Nat)) (s : State) :
    runCommands (digits.map fun d => .bigDigit (col + 4 * (d.2 : Int)) row d.1) s =
      .next (digits.foldl (fun s d => drawDigit params d.1 (col + 4 * (d.2 : Int)) row s) s) := by
  induction digits generalizing s with
  | nil => rfl
  | cons d digits ih =>
    rw [List.map_cons, runCommands, exec_bigDigit, List.foldl_cons]
    exact ih _

/-- Settles O29: BIG_NUMBER draws its decimal digits in turn, as the BIG_DIGIT commands do. -/
theorem bigNumberIsBigDigits : Obligations.BigNumberIsBigDigits := by
  intro col row number s
  rw [← numberDigits_val, List.zipIdx_map, List.map_map]
  calc exec (.bigNumber col row number) s
      = .next (drawNumber params col row number s) := rfl
    _ = .next ((numberDigits number).zipIdx.foldl
          (fun s d => drawDigit params d.1 (col + 4 * (d.2 : Int)) row s) s) := by
        rw [drawNumber_eq, numberCells, foldl_drawDigit]
    _ = _ := (runCommands_bigDigits col row _ s).symm

end Sys2Proof.Machine
end

section
/-! PROOFS. The bus and the two strobes (R101 to R107): what a bus write leaves, its expansion at pin level, and what
every step keeps of both. A command emits whole protocol blocks (R100), so each claim about a step comes from one about a
block or about a single event. -/

namespace Sys2Proof.Machine

theorem emitAll_addrWriteEvents (a : Byte) (s : State) :
    s.emitAll (addrWriteEvents a) =
      { s with
        shift := .byte a, bus := .byte a, srLatch := .high, srClk := .low, srData := levelOfBit (a.getLsbD 0)
        addrStb := .high, trace := s.trace ++ addrWriteEvents a } := by
  simp [addrWriteEvents, State.emit, State.apply]

theorem emitAll_charWriteEvents (b : Byte) (s : State) :
    s.emitAll (charWriteEvents b) =
      { s with
        shift := .byte b, bus := .byte b, srLatch := .high, srClk := .low, srData := levelOfBit (b.getLsbD 0)
        charStb := .high, trace := s.trace ++ charWriteEvents b } := by
  simp [charWriteEvents, State.emit, State.apply]

/-- Settles O12: the bus write sets the shift register and the serial lines, and the pulse behind it ends high. -/
theorem busWriteAndStrobeProtocols : Obligations.BusWriteAndStrobeProtocols :=
  ⟨fun _ _ => ⟨rfl, rfl, rfl⟩, emitAll_addrWriteEvents, emitAll_charWriteEvents⟩

/-! ## The strobe discipline (R106) -/

theorem Disciplined.append {t u : List Event} (ht : Disciplined t) (hu : Disciplined u) : Disciplined (t ++ u) := by
  rw [Disciplined, List.foldl_append, ht]
  exact hu

/-- A block holds at most one strobe's pulse, behind its bus write, and ends it (R104, R105). -/
theorem Block.disciplined (b : Block) : Disciplined b.events := by
  cases b with
  | addr a => rfl
  | char b => rfl
  | clear => rfl
  | indicator v => rfl
  | pages a b => rfl

theorem blocks_disciplined (bs : List Block) : Disciplined (blockEvents bs) := by
  induction bs with
  | nil => rfl
  | cons b bs ih => exact b.disciplined.append ih

/-- Settles O56: a step is idle, or adds whole blocks to TRACE. -/
theorem stepKeepsStrobeDiscipline : Obligations.StepKeepsStrobeDiscipline := by
  intro s t hs h
  obtain ⟨-, rfl⟩ | ⟨i, rest, -, hi⟩ := step_next h
  · exact hs
  · obtain ⟨bs, hb⟩ := exec_byBlocks hi
    rw [hb.trace]
    exact hs.append (blocks_disciplined bs)

/-! ## The blocking time (R107, R238, R240) -/

theorem blockingTime_append (p : Params) (es fs : List Event) :
    blockingTime p (es ++ fs) = blockingTime p es + blockingTime p fs := by simp [blockingTime]

theorem busCount_append (es fs : List Event) : busCount (es ++ fs) = busCount es + busCount fs := List.countP_append

theorem pulseCount_append (x : Line) (es fs : List Event) :
    pulseCount x (es ++ fs) = pulseCount x es + pulseCount x fs := List.count_append

/-- A write holds each strobe level for the settle time, and the clear pulse holds CLR low for the clear hold. -/
theorem Block.blockingTime_eq (p : Params) (b : Block) :
    blockingTime p b.events = 2 * p.tSettle * busCount b.events + p.tClear * pulseCount .clr b.events := by
  cases b <;>
    simp [Block.events, addrWriteEvents, charWriteEvents, clearEvents, blockingTime, Event.duration, busCount,
      pulseCount, two_mul]

theorem blockingTime_blockEvents (p : Params) (bs : List Block) :
    blockingTime p (blockEvents bs) =
      2 * p.tSettle * busCount (blockEvents bs) + p.tClear * pulseCount .clr (blockEvents bs) := by
  induction bs with
  | nil => rfl
  | cons b bs ih =>
    rw [blockEvents_cons, blockingTime_append, busCount_append, pulseCount_append, b.blockingTime_eq, ih]
    ring

/-- Settles O43: what a command adds to TRACE is a list of blocks. -/
theorem blockingTimeOfCommand : Obligations.BlockingTimeOfCommand := by
  refine ⟨Nat.succ_pos _, Nat.succ_pos _, fun i s t es h ht p => ?_⟩
  obtain ⟨bs, hb⟩ := exec_byBlocks h
  obtain rfl : blockEvents bs = es := List.append_cancel_left (hb.trace.symm.trans ht)
  exact blockingTime_blockEvents p bs

/-! ## The pin level (R102, R103) -/

@[simp] theorem PinState.run_nil (p : PinState) : p.run [] = p := rfl

@[simp] theorem PinState.run_cons (p : PinState) (e : PinEvent) (es : List PinEvent) :
    p.run (e :: es) = (p.next e).run es := rfl

theorem PinState.run_append (p : PinState) (es fs : List PinEvent) : p.run (es ++ fs) = (p.run es).run fs :=
  List.foldl_append

/-- The shift of R103 in the library's words. -/
theorem shiftLeft_or_bit (x : Byte) (v : Bool) :
    (x <<< 1 ||| if levelOfBit v = .high then 1#8 else 0#8) = x.shiftConcat v := by
  ext i hi
  cases v <;> cases i <;> simp [levelOfBit, BitVec.getElem_shiftConcat]

/-- The clock pulse of a bit shifts it in at the low end (R103). -/
theorem PinState.run_bitPins {p : PinState} (h : p.clk = .low) (v : Bool) :
    p.run (bitPins v) = { p with data := levelOfBit v, shift := p.shift.shiftConcat v } := by
  simp [bitPins, PinState.next, h, shiftLeft_or_bit]

/-- The shift register after the low `n` bits of `b`, the most significant first, from contents `x`. -/
def shiftIn (b : Byte) : Nat → Byte → Byte
  | 0, x => x
  | n + 1, x => shiftIn b n (x.shiftConcat (b.getLsbD n))

/-- The bits shifted in stand at the low end, and what was there has moved up behind them. -/
theorem getLsbD_shiftIn (b : Byte) (n : Nat) (x : Byte) {j : Nat} (hj : j < 8) :
    (shiftIn b n x).getLsbD j = if j < n then b.getLsbD j else x.getLsbD (j - n) := by
  induction n generalizing x with
  | zero => rfl
  | succ n ih =>
    rw [shiftIn, ih, BitVec.getLsbD_shiftConcat]
    obtain hlt | rfl | hgt := lt_trichotomy j n
    · simp [hlt, Nat.lt_succ_of_lt hlt]
    · simp [hj]
    · have hk : ¬ j < n + 1 ∧ j - n < 8 ∧ j - n ≠ 0 := by omega
      simp [hgt.not_gt, hk, Nat.sub_sub]

/-- Eight shifts leave nothing of the old contents (R103). -/
theorem shiftIn_eight (b x : Byte) : shiftIn b 8 x = b :=
  BitVec.eq_of_getLsbD_eq fun _ hj => (getLsbD_shiftIn b 8 x hj).trans (if_pos hj)

/-- The pin events of a bus write before the last one, the rise of SR_LATCH (R102). -/
def shiftPins (b : Byte) : List PinEvent :=
  .serial .latch .low :: [7, 6, 5, 4, 3, 2, 1, 0].flatMap fun i => bitPins (b.getLsbD i)

theorem busPins_eq (b : Byte) : busPins b = shiftPins b ++ [.serial .latch .high] := rfl

theorem PinState.run_shiftPins {p : PinState} (h : p.clk = .low) (b : Byte) :
    p.run (shiftPins b) = { p with data := levelOfBit (b.getLsbD 0), latch := .low, shift := b } := by
  have hshift : p.run (shiftPins b) =
      { p with data := levelOfBit (b.getLsbD 0), latch := .low, shift := shiftIn b 8 p.shift } := by
    simp [shiftPins, PinState.run_append, PinState.run_bitPins, PinState.next, h, shiftIn]
  rw [hshift, shiftIn_eight]

/-- The latch edge at the end copies the byte to BUS (R102, R103). -/
theorem PinState.run_busPins {p : PinState} (h : p.clk = .low) (b : Byte) :
    p.run (busPins b) =
      { data := levelOfBit (b.getLsbD 0), clk := .low, latch := .high, shift := b, bus := b } := by
  simp [busPins_eq, PinState.run_append, PinState.run_shiftPins h, PinState.next, h]

/-- Only the rise of SR_LATCH writes BUS (R103). -/
theorem PinState.next_bus {e : PinEvent} (he : e ≠ .serial .latch .high) (p : PinState) : (p.next e).bus = p.bus := by
  cases e with
  | serial x v => cases x <;> simp_all [PinState.next]
  | drive x v => rfl
  | wait t => rfl

theorem PinState.run_bus {es : List PinEvent} (hes : ∀ e ∈ es, e ≠ .serial .latch .high) (p : PinState) :
    (p.run es).bus = p.bus :=
  List.foldlRecOn (motive := fun q => q.bus = p.bus) es PinState.next rfl fun q hq e he =>
    (q.next_bus (hes e he)).trans hq

theorem shiftPins_ne_latchHigh (b : Byte) : ∀ e ∈ shiftPins b, e ≠ .serial .latch .high := by
  simp [shiftPins, bitPins]

/-- Settles O13: eight shifts replace the contents, and the latch rises only in the last event. -/
theorem pinExpansionShiftsByteIn : Obligations.PinExpansionShiftsByteIn := by
  intro b p h
  refine ⟨p.run_busPins h b, rfl, fun k hk => PinState.run_bus (fun e he => ?_) p⟩
  have hlen : k ≤ (shiftPins b).length := Nat.le_of_lt_succ hk
  rw [busPins_eq, List.take_append_of_le_length hlen] at he
  exact shiftPins_ne_latchHigh b e (List.mem_of_mem_take he)

/-- An event moves the serial lines and the shift register of the state as its pin events do. -/
theorem State.pins_emit {s : State} (h : s.srClk = .low) (e : Event) (x y : Byte) :
    (s.emit e).pins x y = (s.pins x y).run e.pins := by
  cases e with
  | bus b => exact (PinState.run_busPins (p := s.pins x y) h b).symm
  | drive l v => cases l <;> rfl
  | wait t => rfl

/-- What a step keeps at pin level: SR_CLK rests low, and the expansion of TRACE agrees with the registers. -/
def PinLevelKept (s : State) : Prop := s.srClk = .low ∧ PinsAgree s

theorem PinLevelKept.emit {s : State} (hs : PinLevelKept s) (e : Event) : PinLevelKept (s.emit e) := by
  obtain ⟨hclk, hpins⟩ := hs
  constructor
  · cases e with
    | bus b => rfl
    | drive l v => cases l <;> exact hclk
    | wait t => exact hclk
  · intro x y
    rw [State.pins_emit hclk, ← hpins x y, ← PinState.run_append]
    simp [pinTrace]

theorem PinLevelKept.emitAll {s : State} (hs : PinLevelKept s) (es : List Event) : PinLevelKept (s.emitAll es) :=
  List.foldlRecOn es State.emit hs fun _ ht e _ => ht.emit e

theorem OutputsAfter.pinLevelKept {s t : State} {es : List Event} (h : OutputsAfter s es t) (hs : PinLevelKept s) :
    PinLevelKept t := by
  rw [h]
  exact hs.emitAll es

/-- Settles O58: a step is idle, or takes a packet and emits the events of its command. -/
theorem stepKeepsPinLevelAgreement : Obligations.StepKeepsPinLevelAgreement := by
  intro s t hclk hpins h
  obtain ⟨-, rfl⟩ | ⟨i, rest, -, hi⟩ := step_next h
  · exact ⟨hclk, hpins⟩
  · obtain ⟨bs, hb⟩ := exec_byBlocks hi
    exact hb.pinLevelKept ⟨hclk, hpins⟩

end Sys2Proof.Machine
end

section
/-! PROOFS. The surface commands (R120 to R131): what each does to the engine, in numbers; then where a command stops, and
the address the peripheral has latched. -/

namespace Sys2Proof.Machine

/-! ## The results of the commands -/

/-- Settles O14: an `AddrSet` of the clamped, packed address. -/
theorem setCursorResult : Obligations.SetCursorResult := by
  intro col row s
  rw [← cellAt_ofInt]
  exact congrArg Host.Outcome.next (setCursor_eq col row s)

/-- Settles O19: one character write of the clamped code. -/
theorem writeCharResult : Obligations.WriteCharResult := by
  intro ch s
  rw [← enc_clampCh]
  exact congrArg Host.Outcome.next (writeChar_eq ch s)

/-- Settles O20: the two procedures one after the other, their events appended. -/
theorem writeCharAtResult : Obligations.WriteCharAtResult := by
  intro col row ch s
  refine ⟨rfl, ?_⟩
  rw [← cellAt_ofInt, ← enc_clampCh]
  exact congrArg Host.Outcome.next (writeCharAt_eq col row ch s)

/-- Settles O21: the byte of code 127 is 0x00. -/
theorem writeBlockAtResult : Obligations.WriteBlockAtResult := by
  intro col row s
  rw [← cellAt_ofInt]
  exact congrArg Host.Outcome.next (writeBlockAt_eq col row s)

/-- Settles O22: the pulse ends with CLR high, and no event of it touches another register. -/
theorem clearResult : Obligations.ClearResult := fun s =>
  congrArg Host.Outcome.next (emitAll_clearEvents s)

/-- ADVANCE inside its domain (R122). -/
theorem exec_advance_inside {n : Int} {s : State} {a : Int} (ha : advanceSum s.cursor n = a) (h : 0 ≤ a ∧ a < 160) :
    exec (.advance n) s =
      .next { s.emitAll (addrWriteEvents (BitVec.ofInt 8 a)) with cursor := BitVec.ofInt 8 a } := by
  subst ha
  exact (if_pos h).trans (congrArg Host.Outcome.next (addrSet_eq _ s))

/-- ADVANCE outside its domain (R123). -/
theorem exec_advance_outside {n : Int} {s : State} (h : ¬ (0 ≤ advanceSum s.cursor n ∧ advanceSum s.cursor n < 160)) :
    exec (.advance n) s = .refused .advanceOutsideDomain := if_neg h

/-- Settles O15: the sum below 160 stands, one of 160 or more loses 160 once, and what is then outside the cells is
refused. -/
theorem advanceResult : Obligations.AdvanceResult := by
  intro n s sum
  have hsum : advanceSum s.cursor n = if 160 ≤ sum then sum - 160 else sum := advanceSum_eq s.cursor n
  split
  · next h => exact exec_advance_inside (hsum.trans (if_neg (by omega))) h
  · split
    · next h => exact exec_advance_inside (hsum.trans (if_pos h.1)) (by omega)
    · exact exec_advance_outside (by rw [hsum]; split <;> omega)

/-- Settles O16: the closed form of a text run, from a cell and with the default setting. -/
theorem writeTextResult : Obligations.WriteTextResult := fun text s h =>
  congrArg Host.Outcome.next (textRun_eq params text s h)

/-- Settles O17: the byte sent is `Enc` of the displayed code, and the next cell is CURSOR plus 1, with 160 reset to 0. -/
theorem textPutResult : Obligations.TextPutResult := by
  intro p ch s _ up code a
  have hcode : enc (disp ch.toNat) = BitVec.ofNat 8 (127 - code) := by
    rw [enc_eq _ (Nat.le_succ_of_le (disp_bounds _).2), disp_eq]
  have hcell : nextCell s.cursor = a := by
    rw [nextCell_eq_ite, BitVec.ofNat_add, BitVec.ofNat_toNat, BitVec.setWidth_eq]
    exact if_congr (by omega) rfl rfl
  rw [textPut_eq, hcode, hcell]
  rfl

/-- The two wrap rules on a step of one cell (R122, R125). -/
theorem advanceSum_one {c : Byte} (h : c.toNat < 160) : advanceSum c 1 = ((c.toNat + 1) % 160 : Nat) := by
  rw [advanceSum_eq]
  split <;> omega

/-- Settles O18: from a cell the sum of ADVANCE 1 is the address of the next cell. -/
theorem wrapRulesAgreeForOneStep : Obligations.WrapRulesAgreeForOneStep := by
  intro s ch h
  have hcell : (0 : Int) ≤ ((s.cursor.toNat + 1) % 160 : Nat) ∧ (((s.cursor.toNat + 1) % 160 : Nat) : Int) < 160 := by
    omega
  exact ⟨_, _, exec_advance_inside (advanceSum_one h) hcell, writeTextResult [ch] s h, BitVec.ofInt_natCast 8 _⟩

/-! ## Where a command stops -/

/-- Settles O8: three commands have a refusal, and each other one a single, completing arm. -/
theorem commandsStopOnlyWhereUnspecified : Obligations.CommandsStopOnlyWhereUnspecified := by
  intro i s
  cases i with
  | advance n =>
    by_cases h : 0 ≤ advanceSum s.cursor n ∧ advanceSum s.cursor n < 160
    · exact .inl ⟨_, exec_advance_inside rfl h⟩
    · refine .inr (.inl ⟨n, rfl, ?_, exec_advance_outside h⟩)
      rw [advanceSum_eq] at h
      split at h <;> omega
  | bigDigit col row digit =>
    by_cases h : digit < 10
    · exact .inl ⟨_, dif_pos h⟩
    · exact .inr (.inr (.inl ⟨col, row, digit, rfl, by omega, dif_neg h⟩))
  | scSetText text =>
    cases h : s.scBound with
    | true => exact .inl ⟨_, if_pos h⟩
    | false => exact .inr (.inr (.inr ⟨text, rfl, rfl, if_neg (ne_true_of_eq_false h)⟩))
  | _ => exact .inl ⟨_, rfl⟩

/-! ## The latched address (R121, R231) -/

theorem CursorLatched.latchedIsCursor {s : State} (h : CursorLatched s) : LatchedIsCursor s := .inr h

theorem LatchedIsCursor.frame {s t : State} (h : LatchedIsCursor s) (ha : t.ghost.addr = s.ghost.addr)
    (hc : t.cursor = s.cursor) : LatchedIsCursor t := by
  rwa [LatchedIsCursor, ha, hc]

/-- Taking a packet from the port leaves TRACE and CURSOR alone. -/
theorem LatchedIsCursor.withPort {s : State} (h : LatchedIsCursor s) (port : List Byte) :
    LatchedIsCursor { s with port := port } :=
  h.frame rfl rfl

theorem LatchedIsCursor.charWrite (b : Byte) {s : State} (h : LatchedIsCursor s) : LatchedIsCursor (charWrite b s) :=
  h.frame (charWrite_keeps_addr b s) (charWrite_cursor b s)

/-- A text character moves CURSOR and sends it, so the peripheral has it whatever it had before (R125). -/
theorem textPut_cursorLatched {p : Params} (hp : p.textAddrAfterEach = true) (s : State) (ch : Byte) :
    CursorLatched (textPut p s ch) := by
  rw [textPut_eq_addrSet hp]
  exact addrSet_cursorLatched _ _

theorem LatchedIsCursor.textRun {p : Params} (hp : p.textAddrAfterEach = true) (text : List Byte) {s : State}
    (h : LatchedIsCursor s) : LatchedIsCursor (textRun p text s) :=
  List.foldlRecOn text _ h fun t _ ch _ => (textPut_cursorLatched hp t ch).latchedIsCursor

theorem textRun_addrSet_latchedIsCursor {p : Params} (hp : p.textAddrAfterEach = true) (text : List Byte) (a : Byte)
    (s : State) : LatchedIsCursor (textRun p text (addrSet a s)) :=
  (addrSet_cursorLatched a s).latchedIsCursor.textRun hp text

theorem writeCharAt_cursorLatched (col row : Int) (ch : Nat) (s : State) : CursorLatched (writeCharAt col row ch s) := by
  rw [writeCharAt_eq_charWrite]
  exact charWrite_setCursor_cursorLatched _ col row s

theorem writeBlockAt_cursorLatched (col row : Int) (s : State) : CursorLatched (writeBlockAt col row s) := by
  rw [writeBlockAt]
  exact charWrite_setCursor_cursorLatched _ col row s

theorem LatchedIsCursor.drawGlyphCell (p : Params) (d : Fin 10) (col row : Int) {s : State} (h : LatchedIsCursor s)
    (cell : Fin 5 × Fin 3) : LatchedIsCursor (drawGlyphCell p d col row s cell) := by
  unfold Machine.drawGlyphCell
  dsimp only
  split
  · split
    · exact (writeBlockAt_cursorLatched _ _ s).latchedIsCursor
    · exact (writeCharAt_cursorLatched _ _ _ s).latchedIsCursor
  · exact h

theorem LatchedIsCursor.drawDigit (p : Params) (d : Fin 10) (col row : Int) {s : State} (h : LatchedIsCursor s) :
    LatchedIsCursor (drawDigit p d col row s) :=
  List.foldlRecOn glyphCells _ h fun _ ht cell _ => ht.drawGlyphCell p d col row cell

theorem LatchedIsCursor.drawNumber (p : Params) (col row : Int) (number : Nat) {s : State} (h : LatchedIsCursor s) :
    LatchedIsCursor (drawNumber p col row number s) :=
  List.foldlRecOn _ _ h fun _ ht _ _ => ht.drawDigit p _ _ row

/-- `Render` draws from an address of its own, or not at all (R180). -/
theorem LatchedIsCursor.render {p : Params} (hp : p.textAddrAfterEach = true) {s : State} (h : LatchedIsCursor s) :
    LatchedIsCursor (render p s) := by
  unfold Machine.render
  dsimp only
  split
  · exact textRun_addrSet_latchedIsCursor hp _ _ s
  · exact h

theorem clearWindow_latchedIsCursor {p : Params} (hp : p.textAddrAfterEach = true) (s : State) :
    LatchedIsCursor (clearWindow p s) :=
  textRun_addrSet_latchedIsCursor hp _ _ s

theorem tick_latchedIsCursor {p : Params} (hp : p.textAddrAfterEach = true) (s : State) :
    LatchedIsCursor (tick p s) :=
  ((clearWindow_latchedIsCursor hp s).render hp).frame rfl rfl

/-- The optional lines are no part of the addressing (R64). -/
theorem LatchedIsCursor.emit_curInd (v : Drive) {s : State} (h : LatchedIsCursor s) :
    LatchedIsCursor (s.emit (.drive .curInd v)) :=
  h.frame (by rw [State.ghost_emit]; rfl) (s.emit_cursor _)

theorem LatchedIsCursor.emitAll_pageEvents (page : Int) {s : State} (h : LatchedIsCursor s) :
    LatchedIsCursor (s.emitAll (pageEvents page)) :=
  h.frame (by rw [State.ghost_emitAll]; rfl) (s.emitAll_cursor _)

/-- The clear pulse forgets the address (R63). -/
theorem emitAll_clearEvents_latchedIsCursor (s : State) : LatchedIsCursor (s.emitAll clearEvents) :=
  .inl (by rw [State.ghost_emitAll, Ghost.run_clearEvents]; rfl)

/-- Every command leaves the latched address at CURSOR or unknown: what moves CURSOR sends it (R121, R125), CLEAR forgets
it (R63), and no other command strobes an address. -/
theorem exec_keeps_latchedIsCursor {i : Instr} {s t : State} (hs : LatchedIsCursor s) (h : exec i s = .next t) :
    LatchedIsCursor t := by
  cases i with
  | setCursor col row => exact .inr (positioningLatchesCursor col row 0 0 s t (.inl h))
  | advance n => exact .inr (positioningLatchesCursor 0 0 n 0 s t (.inr (.inl h)))
  | writeCharAt col row ch => exact .inr (positioningLatchesCursor col row 0 ch s t (.inr (.inr (.inl h))))
  | writeBlockAt col row => exact .inr (positioningLatchesCursor col row 0 0 s t (.inr (.inr (.inr h))))
  | writeText text => cases h; exact hs.textRun rfl text
  | writeChar ch => cases h; exact hs.charWrite _
  | clear => cases h; exact emitAll_clearEvents_latchedIsCursor s
  | bigNumber col row number => cases h; exact hs.drawNumber params col row number
  | bigDigit col row digit =>
    simp only [exec, execBigDigit] at h
    split at h <;> cases h
    exact hs.drawDigit params _ col row
  | ciShow =>
    simp only [exec, execCiShow] at h
    split at h <;> cases h
    · exact hs.emit_curInd .high
    · exact hs
  | ciHide =>
    simp only [exec, execCiHide] at h
    split at h <;> cases h
    · exact hs.emit_curInd .low
    · exact hs
  | pgSelect page =>
    simp only [exec, execPgSelect] at h
    split at h <;> cases h
    · exact hs.emitAll_pageEvents page
    · exact hs
  | scConfig scol srow ecol erow delay text =>
    cases h
    exact hs.frame (congrArg Ghost.addr (ghost_configure _ _ _ _ _ _ _ s)) (by rw [configure_eq])
  | scUpdate now =>
    simp only [exec, execScUpdate] at h
    split at h <;> cases h
    · exact tick_latchedIsCursor rfl _
    · exact hs
  | scSetText text =>
    simp only [exec, execScSetText] at h
    split at h <;> cases h
    exact (clearWindow_latchedIsCursor rfl _).frame rfl rfl
  | ciBegin => cases h; exact hs.frame rfl rfl
  | pgBegin => cases h; exact hs.frame rfl rfl
  | scEnable => cases h; exact hs.frame rfl rfl
  | scDisable => cases h; exact hs.frame rfl rfl

/-- Settles O57: a step is idle, or takes a packet, which the peripheral does not see, and runs its command. -/
theorem stepKeepsLatchedAddress : Obligations.StepKeepsLatchedAddress := by
  intro s t _ hs h
  obtain ⟨-, rfl⟩ | ⟨i, rest, -, hi⟩ := step_next h
  · exact hs
  · exact exec_keeps_latchedIsCursor (hs.withPort rest) hi

end Sys2Proof.Machine
end

section
/-! PROOFS. What the optional-line commands do (R140 to R145), and the page PG_SELECT passes through on its way (R236). -/

namespace Sys2Proof.Machine

/-- PG_SELECT with its gate closed (R145). -/
theorem exec_pgSelect_closed (page : Int) {s : State} (hg : ¬ s.pgEn = true) : exec (.pgSelect page) s = .next s :=
  congrArg Host.Outcome.next (if_neg hg)

/-- PG_SELECT's events by the clamped page: line A is low for an odd page, line B for page 2 or 3 (R77). -/
theorem pageEvents_eq (page : Int) :
    pageEvents page =
      [.drive .pageA (if min 3 (max 0 page) = 1 ∨ min 3 (max 0 page) = 3 then .low else .high),
        .drive .pageB (if 2 ≤ min 3 (max 0 page) then .low else .high)] := by
  rw [pageEvents, pageBits_lineA, pageBits_lineB]

/-- Settles O24: the gate opens on PG_SELECT's two events, and each leaves its line at the level of its page bit. -/
theorem pagingResults : Obligations.PagingResults := by
  intro page s
  refine ⟨rfl, ?_⟩
  by_cases hg : s.pgEn = true
  · rw [exec_pgSelect page hg, emitAll_pageEvents, pageEvents_eq, pageBits_lineA, pageBits_lineB, if_pos hg]
  · rw [exec_pgSelect_closed page hg, if_neg hg]

/-- Settles O23: CI_SHOW and CI_HIDE are one `emit` behind the gate, which sets CUR_IND and appends its event. -/
theorem cursorIndicatorResults : Obligations.CursorIndicatorResults := fun _ => ⟨rfl, rfl, rfl⟩

/-- A drive of line A sets the page's low bit and keeps its high bit (R23). -/
theorem pageOf_lineA_driven (v : Drive) {a b : Level} {source : Nat} (h : pageOf a b = some source) :
    pageOf v.toLevel b = some (2 * (source / 2) + if v = .low then 1 else 0) := by
  cases a <;> cases b <;> cases h <;> cases v <;> rfl

/-- PG_SELECT's drive of line A sets the low bit of the clamped page (R77). -/
theorem pageOf_pageBits_lineA (page : Int) {a b : Level} {source : Nat} (h : pageOf a b = some source) :
    pageOf (levelOfBit ((pageBits page).getLsbD 0)).toLevel b =
      some (2 * (source / 2) + (min 3 (max 0 page)).toNat % 2) := by
  rw [pageOf_lineA_driven _ h, pageBits_lineA]
  obtain ⟨-, hq | hq | hq | hq⟩ := clampPage_cases page <;> rw [hq] <;> rfl

/-- The pages the lines select while PG_SELECT's events are emitted (R236). -/
theorem selections_pageEvents (page : Int) {a b : Level} {source : Nat} (h : pageOf a b = some source) :
    (selections (a, b) (pageEvents page)).map (fun sel => pageOf sel.1 sel.2) =
      [some source, some (2 * (source / 2) + (min 3 (max 0 page)).toNat % 2), some (min 3 (max 0 page)).toNat] := by
  simp only [pageEvents, selections, List.map, h, pageOf_pageBits_lineA page h, pageOf_pageBits]

/-- Settles O26: line A moves first, so the page between has the low bit of the new page and the high bit of the old
one. -/
theorem pageChangePassesThroughThirdPage : Obligations.PageChangePassesThroughThirdPage := by
  intro source via target s hmem hg hpage
  refine ⟨_, _, _, exec_pgSelect target hg, s.emitAll_trace (pageEvents target),
    (selections_pageEvents target hpage).trans ?_⟩
  have hclamp : ∀ c ∈ ([(0, 1, 3), (3, 2, 0), (1, 0, 2), (2, 3, 1)] : List (Nat × Nat × Nat)),
      2 * (c.1 / 2) + (min 3 (max 0 (c.2.2 : Int))).toNat % 2 = c.2.1 ∧ (min 3 (max 0 (c.2.2 : Int))).toNat = c.2.2 := by
    decide
  obtain ⟨hvia, htarget⟩ := hclamp _ hmem
  rw [hvia, htarget]

end Sys2Proof.Machine
end

section
/-! PROOFS. The big-number commands (R155 to R160): the events and CURSOR of a drawing; then what a big digit shows. Each
of its cells overwrites one display cell with the value the table gives for that cell, so the order of drawing does not
matter to the display. -/

namespace Sys2Proof.Machine

theorem exec_bigDigit_refused (col row : Int) {digit : Nat} (h : ¬ digit < 10) (s : State) :
    exec (.bigDigit col row digit) s = .refused .digitOutsideTable := dif_neg h

/-- Settles O27: a digit of the table is drawn cell by cell, and no other has a meaning. -/
theorem bigDigitResult : Obligations.BigDigitResult := by
  intro col row digit s
  split
  · next h => exact (exec_bigDigit col row ⟨digit, h⟩ s).trans (congrArg Host.Outcome.next (drawDigit_eq ..))
  · next h => exact exec_bigDigit_refused col row h s

/-- Settles O28: the digits the loop of R155 computes are the decimal digits, and it draws them in turn. -/
theorem bigNumberResult : Obligations.BigNumberResult := fun col row number s =>
  ⟨numberDigits number, numberDigits_val number,
    congrArg Host.Outcome.next (drawNumber_eq params col row number s)⟩

/-! ## What a big digit shows (R157, R159) -/

/-- The display cell `a` is the place of a glyph cell of a big digit at (`col`, `row`). -/
abbrev IsGlyphCell (col row : Int) (cell : Fin 5 × Fin 3) (a : Nat) : Prop :=
  a < 160 ∧ ((a % 16 : Nat) : Int) = col + cell.2.val ∧ ((a / 16 : Nat) : Int) = row + cell.1.val

/-- The code a glyph cell is drawn with: block or space, as the table says (R157). -/
def glyphCode (p : Params) (d : Fin 10) (cell : Fin 5 × Fin 3) : Nat := if p.glyph d cell.1 cell.2 then 127 else 32

theorem glyphCode_le (p : Params) (d : Fin 10) (cell : Fin 5 × Fin 3) : glyphCode p d cell ≤ 127 := by
  unfold glyphCode
  split <;> decide

theorem digitShown_of_isGlyphCell (p : Params) (d : Fin 10) {col row : Int} {cell : Fin 5 × Fin 3} {a : Nat}
    (h : IsGlyphCell col row cell a) : digitShown p d col row a = some (.code (glyphCode p d cell)) := by
  obtain ⟨ha, hx, hy⟩ := h
  have hgc : ((a % 16 : Nat) : Int) - col = cell.2.val := by omega
  have hgr : ((a / 16 : Nat) : Int) - row = cell.1.val := by omega
  simp only [digitShown, hgc, hgr, glyphCode]
  rw [if_pos (by omega)]
  simp

/-- A display cell of the box is the place of a glyph cell. -/
theorem exists_isGlyphCell_of_digitShown {p : Params} {d : Fin 10} {col row : Int} {a : Nat}
    (h : digitShown p d col row a ≠ none) : ∃ cell, IsGlyphCell col row cell a := by
  obtain ⟨⟨ha, hc0, hc3, hr0, hr5⟩, -⟩ := ite_ne_right_iff.mp h
  refine ⟨(⟨((a / 16 : Nat) - row).toNat, by omega⟩, ⟨((a % 16 : Nat) - col).toNat, by omega⟩), ha, ?_, ?_⟩
  · dsimp only; omega
  · dsimp only; omega

/-- A part of a big digit, some of its glyph cells: the display cells at their places show what the whole digit does. -/
def glyphCellsShown (p : Params) (d : Fin 10) (col row : Int) (cells : List (Fin 5 × Fin 3)) : Nat → Option CellView :=
  fun a => if ∃ cell ∈ cells, IsGlyphCell col row cell a then digitShown p d col row a else none

theorem glyphCellsShown_nil (p : Params) (d : Fin 10) (col row : Int) :
    glyphCellsShown p d col row [] = fun _ => none := by
  funext a
  simp [glyphCellsShown]

/-- The order of drawing does not matter: every glyph cell at a place shows the same there. -/
theorem glyphCellsShown_or (p : Params) (d : Fin 10) (col row : Int) (cell : Fin 5 × Fin 3)
    (cells : List (Fin 5 × Fin 3)) (a : Nat) :
    (glyphCellsShown p d col row cells a).or (glyphCellsShown p d col row [cell] a) =
      glyphCellsShown p d col row (cell :: cells) a := by
  simp only [glyphCellsShown, List.exists_mem_cons_iff, List.not_mem_nil, false_and, exists_false, or_false]
  by_cases hrest : ∃ cell ∈ cells, IsGlyphCell col row cell a
  · rw [if_pos hrest, if_pos (Or.inr hrest)]
    split <;> simp
  · rw [if_neg hrest, Option.none_or]
    exact if_congr (or_iff_left hrest).symm rfl rfl

theorem mem_glyphCells : ∀ cell, cell ∈ glyphCells := by decide

theorem glyphCellsShown_glyphCells (p : Params) (d : Fin 10) (col row : Int) :
    glyphCellsShown p d col row glyphCells = digitShown p d col row := by
  funext a
  refine ite_eq_left_iff.mpr fun h => ?_
  by_contra hne
  obtain ⟨cell, hcell⟩ := exists_isGlyphCell_of_digitShown (Ne.symm hne)
  exact h ⟨cell, mem_glyphCells cell, hcell⟩

theorem inGrid_iff (x y : Int) : inGrid x y = true ↔ (0 ≤ x ∧ x ≤ 15) ∧ (0 ≤ y ∧ y ≤ 9) := by
  refine decide_eq_true_iff.trans ?_
  simp only [Config.cols, Config.rows]
  omega

/-- A glyph cell in the grid has one place, the address of its position. -/
theorem glyphCellsShown_inGrid (p : Params) (d : Fin 10) {col row : Int} {cell : Fin 5 × Fin 3}
    (h : inGrid (col + cell.2.val) (row + cell.1.val) = true) :
    glyphCellsShown p d col row [cell] =
      cellShown (cellAt (col + cell.2.val) (row + cell.1.val)).toNat (glyphCode p d cell) := by
  obtain ⟨hx, hy⟩ := (inGrid_iff _ _).mp h
  funext a
  have hplace : IsGlyphCell col row cell a ↔ a = (cellAt (col + cell.2.val) (row + cell.1.val)).toNat := by
    rw [cellAt_toNat]
    have := clampCol_eq (col + cell.2.val)
    have := clampRow_eq (row + cell.1.val)
    unfold IsGlyphCell
    omega
  simp only [glyphCellsShown, cellShown, List.mem_singleton, exists_eq_left, ← hplace]
  split
  · next hcell => exact digitShown_of_isGlyphCell p d hcell
  · rfl

/-- A glyph cell outside the grid has no place (R159). -/
theorem glyphCellsShown_outside (p : Params) (d : Fin 10) {col row : Int} {cell : Fin 5 × Fin 3}
    (h : ¬ inGrid (col + cell.2.val) (row + cell.1.val) = true) :
    glyphCellsShown p d col row [cell] = fun _ => none := by
  rw [inGrid_iff] at h
  funext a
  refine if_neg ?_
  rintro ⟨_, hmem, ha, hx, hy⟩
  obtain rfl := List.mem_singleton.mp hmem
  omega

/-- A glyph cell in the grid is one character write after SET_CURSOR (R128, R129, R157). -/
theorem drawGlyphCell_inGrid (p : Params) (d : Fin 10) {col row : Int} {cell : Fin 5 × Fin 3}
    (h : inGrid (col + cell.2.val) (row + cell.1.val) = true) (s : State) :
    drawGlyphCell p d col row s cell =
      charWrite (enc (glyphCode p d cell)) (setCursor (col + cell.2.val) (row + cell.1.val) s) := by
  refine (if_pos h).trans ?_
  unfold glyphCode
  split <;> rfl

theorem Shows.drawGlyphCell (p : Params) (d : Fin 10) (col row : Int) (s : State) (cell : Fin 5 × Fin 3) :
    Shows (glyphCellsShown p d col row [cell]) s.ghost (drawGlyphCell p d col row s cell).ghost := by
  by_cases h : inGrid (col + cell.2.val) (row + cell.1.val) = true
  · have hshow := Shows.charWrite_setCursor (glyphCode_le p d cell) (drawGlyphCell_inGrid p d h s)
    have hcursor : (Machine.drawGlyphCell p d col row s cell).cursor =
        cellAt (col + cell.2.val) (row + cell.1.val) := by
      rw [drawGlyphCell_inGrid p d h, charWrite_cursor, setCursor_eq]
      rfl
    rwa [hcursor, ← glyphCellsShown_inGrid p d h] at hshow
  · have hskip : Machine.drawGlyphCell p d col row s cell = s := if_neg h
    rw [hskip, glyphCellsShown_outside p d h]
    exact Shows.refl _

theorem Shows.foldl_drawGlyphCell (p : Params) (d : Fin 10) (col row : Int) (cells : List (Fin 5 × Fin 3)) (s : State) :
    Shows (glyphCellsShown p d col row cells) s.ghost (cells.foldl (Machine.drawGlyphCell p d col row) s).ghost := by
  induction cells generalizing s with
  | nil =>
    rw [glyphCellsShown_nil]
    exact Shows.refl _
  | cons cell cells ih =>
    exact funext (glyphCellsShown_or p d col row cell cells) ▸ (Shows.drawGlyphCell p d col row s cell).trans (ih _)

/-- Settles O50: the fifteen glyph cells have their places in the whole box. -/
theorem bigDigitCoversItsBox : Obligations.BigDigitCoversItsBox := fun col row d s =>
  ⟨_, exec_bigDigit col row d s,
    glyphCellsShown_glyphCells params d col row ▸ Shows.foldl_drawGlyphCell params d col row glyphCells s⟩

end Sys2Proof.Machine
end

section
/-! PROOFS. The scroll window commands (R170 to R186): the window SC_CONFIG makes, the gate of SC_UPDATE, a tick in
numbers, the text change, the cycle; then what a tick and a text change show. -/

namespace Sys2Proof.Machine

/-! ## The window (R170 to R172) -/

/-- The clamped, packed address of a position, as an integer (R70, R72). -/
theorem cellAt_toInt (col row : Int) :
    ((cellAt col row).toNat : Int) = 16 * min 9 (max 0 row) + min 15 (max 0 col) := by
  rw [cellAt_toNat, ← clampRow_eq, ← clampCol_eq]
  rfl

/-- A window's length by its two addresses (R172). -/
theorem winLen_toInt (p : Params) (start : Byte) (ecol erow : Int) :
    (winLen p start ecol erow : Int) =
      if (start.toNat : Int) < (cellAt ecol erow).toNat then
        ((cellAt ecol erow).toNat : Int) - start.toNat + (if p.windowEndInclusive then 1 else 0)
      else 1 := by
  unfold winLen
  dsimp only
  split
  · next h =>
    rw [if_pos (Int.ofNat_lt.mpr h), Nat.cast_add, Int.natCast_sub h.le, Nat.cast_ite]
    rfl
  · next h => exact (if_neg (mt Int.ofNat_lt.mp h)).symm

/-- Settles O30: the length and its bounds, with both addresses as integers. -/
theorem windowLengthRule : Obligations.WindowLengthRule := by
  intro p scol srow ecol erow s e w
  have hs : ((cellAt scol srow).toNat : Int) = s := cellAt_toInt scol srow
  have he : ((cellAt ecol erow).toNat : Int) = e := cellAt_toInt ecol erow
  obtain ⟨hpos, hend⟩ : 1 ≤ w ∧ (cellAt scol srow).toNat + w ≤ 160 :=
    winLen_bounds p (cellAt scol srow) ecol erow (cellAt_lt scol srow)
  refine ⟨?_, hpos, by omega⟩
  rw [← hs, ← he]
  exact winLen_toInt p _ ecol erow

theorem TextFits.toNat_length {text : List Byte} (h : TextFits text) :
    (BitVec.ofNat 8 text.length).toNat = text.length := by
  simp only [TextFits, Config.textMax] at h
  rw [BitVec.toNat_ofNat]
  omega

/-- Settles O31: the registers `configure` writes, each in numbers; the two byte lengths lose nothing. -/
theorem scConfigResult : Obligations.ScConfigResult := by
  intro scol srow ecol erow delay text s ht start stop w
  have hw : (winLen params (cellAt scol srow) ecol erow : Int) = w := by
    rw [winLen_toInt, cellAt_toInt, cellAt_toInt]
    simp [w, start, stop, params]
  have hlen : (BitVec.ofNat 8 (winLen params (cellAt scol srow) ecol erow)).toNat =
      winLen params (cellAt scol srow) ecol erow := by
    have := winLen_bounds params (cellAt scol srow) ecol erow (cellAt_lt scol srow)
    rw [BitVec.toNat_ofNat]
    omega
  rw [← cellAt_ofInt, ← hw, ← Int.natCast_add, BitVec.ofInt_natCast, BitVec.ofInt_natCast]
  refine congrArg Host.Outcome.next ((configure_eq ..).trans ?_)
  simp only [phaseTop, hlen, TextFits.toNat_length ht]

/-! ## The gate of SC_UPDATE (R176, R177, R183) -/

theorem tickGate_iff (now : Time) (s : State) :
    tickGate now s = true ↔
      s.scBound = true ∧ s.scEn = true ∧ s.delay.toNat ≤ (elapsed now s.lastTick).toNat := by
  simp only [tickGate, Bool.and_eq_true, decide_eq_true_eq, and_assoc]

theorem exec_scUpdate_closed {now : Time} {s : State} (h : ¬ tickGate now s = true) :
    exec (.scUpdate now) s = .next s := congrArg Host.Outcome.next (if_neg h)

theorem exec_scUpdate_open {now : Time} {s : State} (h : tickGate now s = true) :
    exec (.scUpdate now) s = .next (tick params (s.withLastTick now)) := congrArg Host.Outcome.next (if_pos h)

/-- Settles O32: each of the three conditions contradicts one part of the gate. -/
theorem scUpdateGateClosed : Obligations.ScUpdateGateClosed := by
  intro now s h
  refine exec_scUpdate_closed fun hg => ?_
  obtain ⟨hbound, hen, htime⟩ := (tickGate_iff now s).mp hg
  rw [elapsed_toNat] at htime
  rcases h with h | h | h
  · exact Bool.false_ne_true (h.symm.trans hbound)
  · exact Bool.false_ne_true (h.symm.trans hen)
  · omega

/-- Settles O36: the two commands write SC_EN alone, and SC_EN = 0 closes the gate. -/
theorem scEnableDisableResults : Obligations.ScEnableDisableResults := fun _ =>
  ⟨rfl, rfl, fun now => scUpdateGateClosed now _ (.inr (.inl rfl))⟩

/-! ## A tick (R178 to R180)

Where two states are compared register by register, the state after the events is generalized first: `rfl` would
otherwise run the events. -/

/-- The plan of R180 without its two regimes: `p - L` cells of the window lie before the text, `L - p` characters of the
text before the window, and what is left of both is drawn. -/
theorem renderPlan_eq (p l w s : Nat) :
    renderPlan p l w s = { pos := s + (p - l), first := l - p, count := min (w - (p - l)) (l - (l - p)) } := by
  unfold renderPlan
  split <;> congr 1 <;> omega

/-- The slice of R174 by the plan of R180. -/
theorem renderSlice_eq (p w s : Nat) (text : List Byte) :
    renderSlice p w text =
      (text.drop (renderPlan p text.length w s).first).take (renderPlan p text.length w s).count := by
  rw [renderPlan_eq, renderSlice]
  dsimp only
  split
  · next h =>
    rw [Nat.sub_eq_zero_of_le h, List.drop_zero, List.take_eq_take_iff]
    omega
  · rw [List.take_eq_take_iff, List.length_drop]
    omega

theorem renderStart_eq (p w s : Nat) (text : List Byte) :
    renderStart p s text = (renderPlan p text.length w s).pos := by
  rw [renderPlan_eq, renderStart]
  dsimp only
  split <;> omega

theorem renderSlice_length_eq (p w s : Nat) (text : List Byte) :
    (renderSlice p w text).length = (renderPlan p text.length w s).count := by
  rw [renderSlice_length, renderPlan_eq, renderPlan_eq]

theorem renderSlice_eq_nil_iff (p w s : Nat) (text : List Byte) :
    renderSlice p w text = [] ↔ ¬ 0 < (renderPlan p text.length w s).count := by
  rw [← renderSlice_length_eq, List.length_pos_iff, not_not]

/-- The events of `Render` by the plan of R180. -/
theorem renderEvents_eq (resend : Bool) (p w s : Nat) (text : List Byte) :
    renderEvents resend p w s text =
      let plan := renderPlan p text.length w s
      if 0 < plan.count then positionedTextEvents resend plan.pos ((text.drop plan.first).take plan.count) else [] := by
  simp only [renderEvents, renderSlice_eq_nil_iff p w s, ite_not, renderStart_eq p w, ← renderSlice_eq]

/-- CURSOR after a tick by the plan of R180. -/
theorem tickCursor_eq (p w s : Nat) (text : List Byte) :
    tickCursor p w s text =
      let plan := renderPlan p text.length w s
      if 0 < plan.count then (plan.pos + plan.count) % 160 else (s + w) % 160 := by
  simp only [tickCursor, renderSlice_eq_nil_iff p w s, ite_not, renderStart_eq p w, renderSlice_length_eq p w s]

/-- PHASE after a tick, in numbers (R178). -/
theorem nextPhase_eq_ofNat (p : BitVec 9) (w l : Byte) :
    nextPhase p (phaseTop w l) = BitVec.ofNat 9 (if p.toNat = 0 then w.toNat + l.toNat else p.toNat - 1) := by
  rw [← nextPhase_toNat, BitVec.ofNat_toNat, BitVec.setWidth_eq]

/-- Settles O33: the position, the first character and the count are those of the plan of R180. -/
theorem tickResult : Obligations.TickResult := by
  intro cfg s h p w start l k pos first drawn
  have hplan : renderPlan p s.text.length w start = ⟨pos, first, k⟩ := by
    obtain ⟨-, -, -, htext, -⟩ := h
    simp only [renderPlan, htext, pos, first, k, l]
    split <;> rfl
  rw [tick_eq cfg s h, renderEvents_eq, tickCursor_eq, hplan, nextPhase_eq_ofNat]
  rfl

/-- The events of a tick, with the default TEXT_ADDR_AFTER_EACH = 1 (R179, R180). -/
def tickEvents (s : State) : List Event :=
  windowClearEvents true s.areaStart.toNat s.areaLen.toNat ++
    renderEvents true s.phase.toNat s.areaLen.toNat s.areaStart.toNat s.text

theorem params_textAddrAfterEach : params.textAddrAfterEach = true := rfl

/-- What SC_UPDATE does with its gate open (R176 to R180). -/
theorem exec_scUpdate_ticks {now : Time} {s : State} (hg : tickGate now s = true) (hw : WindowLegal s) :
    exec (.scUpdate now) s =
      .next ((((s.emitAll (tickEvents s)).withLastTick now).withCursor
        (BitVec.ofNat 8 (tickCursor s.phase.toNat s.areaLen.toNat s.areaStart.toNat s.text))).withPhase
        (nextPhase s.phase (phaseTop s.areaLen s.textLen))) := by
  rw [exec_scUpdate_open hg, tick_eq params (s.withLastTick now) hw, State.emitAll_withLastTick,
    params_textAddrAfterEach]
  rfl

/-- Settles O34: the gate opens, and the phase after the tick is put in numbers. -/
theorem scUpdateTicks : Obligations.ScUpdateTicks := by
  intro now s hbound hen hw htime
  rw [← elapsed_toNat] at htime
  refine (exec_scUpdate_ticks ((tickGate_iff now s).mpr ⟨hbound, hen, htime⟩) hw).trans ?_
  rw [nextPhase_eq_ofNat, tickEvents]
  generalize s.emitAll _ = u
  rfl

/-! ## The text change (R182, R183) -/

theorem exec_scSetText_bound (text : List Byte) {s : State} (h : s.scBound = true) :
    exec (.scSetText text) s = .next ((clearWindow params (loadText text (s.withScEn false))).withScEn true) :=
  if_pos h

theorem exec_scSetText_refused (text : List Byte) {s : State} (h : s.scBound = false) :
    exec (.scSetText text) s = .refused .setTextBeforeConfig := if_neg (ne_true_of_eq_false h)

theorem emitAll_loadText (text : List Byte) (s : State) (es : List Event) :
    (loadText text s).emitAll es = loadText text (s.emitAll es) := by
  rw [loadText, loadText, State.emitAll_withPhase, State.emitAll_withText, State.emitAll_areaLen]

/-- What SC_SET_TEXT does on a bound window that starts in the grid (R182). -/
theorem exec_scSetText_eq (text : List Byte) {s : State} (hb : s.scBound = true) (hs : s.areaStart.toNat < 160) :
    exec (.scSetText text) s =
      .next (((loadText text (s.emitAll (windowClearEvents true s.areaStart.toNat s.areaLen.toNat))).withCursor
        (BitVec.ofNat 8 ((s.areaStart.toNat + s.areaLen.toNat) % 160))).withScEn true) := by
  rw [exec_scSetText_bound text hb, clearWindow_eq params (loadText text (s.withScEn false)) hs, emitAll_loadText,
    State.emitAll_withScEn, params_textAddrAfterEach]
  simp only [loadText, State.withPhase_areaStart, State.withPhase_areaLen, State.withText_areaStart,
    State.withText_areaLen, State.withScEn_areaStart, State.withScEn_areaLen, State.emitAll_areaLen]
  generalize s.emitAll _ = u
  rfl

/-- Settles O35: the text's length fits its register, so the top phase is `W + len`. -/
theorem scSetTextResult : Obligations.ScSetTextResult := by
  intro text s ht
  refine ⟨fun hb hs => ?_, exec_scSetText_refused text⟩
  rw [exec_scSetText_eq text hb hs, loadText, phaseTop, TextFits.toNat_length ht, State.emitAll_areaLen]
  generalize s.emitAll _ = u
  rfl

/-! ## The cycle (R186) -/

/-- Every update ticks, whatever the time: the window is bound and enabled, and DELAY is 0 (R176). -/
abbrev TicksAlways (s : State) : Prop := s.scBound = true ∧ s.scEn = true ∧ s.delay = 0 ∧ WindowLegal s

/-- The same window, text and delay: the scroll registers that no update writes (R176). -/
abbrev SameWindow (s t : State) : Prop :=
  t.areaStart = s.areaStart ∧ t.areaLen = s.areaLen ∧ t.text = s.text ∧ t.textLen = s.textLen ∧ t.delay = s.delay

theorem TicksAlways.tickGate {s : State} (h : TicksAlways s) (now : Time) : tickGate now s = true := by
  obtain ⟨hbound, hen, hdelay, -⟩ := h
  refine (tickGate_iff now s).mpr ⟨hbound, hen, ?_⟩
  rw [hdelay]
  exact Nat.zero_le _

/-- One step of the phase is one step down modulo `W + L + 1` (R178, R186). -/
theorem nextPhase_toInt {p : BitVec 9} {w l : Byte} (h : p.toNat ≤ w.toNat + l.toNat) :
    ((nextPhase p (phaseTop w l)).toNat : Int) = ((p.toNat : Int) - 1) % (w.toNat + l.toNat + 1) := by
  rw [nextPhase_toNat]
  split
  · next hp => rw [hp, ← Int.add_emod_right, Int.emod_eq_of_lt] <;> omega
  · rw [Int.emod_eq_of_lt] <;> omega

/-- One update of a window that always ticks: its events, CURSOR and the next phase. -/
theorem TicksAlways.exec_scUpdate {s : State} (h : TicksAlways s) (now : Time) :
    ∃ t, exec (.scUpdate now) s = .next t ∧ t.trace = s.trace ++ tickEvents s ∧
      t.cursor = BitVec.ofNat 8 (tickCursor s.phase.toNat s.areaLen.toNat s.areaStart.toNat s.text) ∧
      (t.phase.toNat : Int) = ((s.phase.toNat : Int) - 1) % (s.areaLen.toNat + s.textLen.toNat + 1) := by
  have ⟨_, _, _, hw⟩ := h
  have ⟨_, _, _, _, hphase⟩ := hw
  refine ⟨_, exec_scUpdate_ticks (h.tickGate now) hw, ?_, ?_, ?_⟩
  · simp only [State.withPhase_trace, State.withCursor_trace, State.withLastTick_trace, State.emitAll_trace]
  · simp only [State.withPhase_cursor, State.withCursor_cursor]
  · exact nextPhase_toInt hphase

theorem SameWindow.trans {s t u : State} (h₁ : SameWindow s t) (h₂ : SameWindow t u) : SameWindow s u := by
  obtain ⟨hstart, hlen, htext, htextLen, hdelay⟩ := h₁
  rwa [SameWindow, hstart, hlen, htext, htextLen, hdelay] at h₂

/-- The window goes on ticking: an update writes no mode bit, keeps DELAY, and leaves the window legal. -/
theorem TicksAlways.of_exec {now : Time} {s t : State} (h : TicksAlways s) (hst : exec (.scUpdate now) s = .next t) :
    TicksAlways t := by
  obtain ⟨hbound, hen, hdelay, hw⟩ := h
  obtain ⟨-, -, htbound, hten⟩ := modeBitWriters _ s t hst
  obtain ⟨-, -, -, -, htdelay⟩ := scrollRegisterWriters _ s t hst
  have hb : t.scBound = true := by rw [htbound, hbound]; rfl
  exact ⟨hb, hten.trans hen, htdelay.trans hdelay, exec_keeps_scroll rfl (fun _ => hw) hst hb⟩

/-- Updates of a window that always ticks: each takes the phase one step further (R186). -/
theorem TicksAlways.runCommands {s : State} (h : TicksAlways s) (nows : List Time) :
    ∃ t, runCommands (nows.map .scUpdate) s = .next t ∧ TicksAlways t ∧ SameWindow s t ∧
      (t.phase.toNat : Int) = ((s.phase.toNat : Int) - nows.length) % (s.areaLen.toNat + s.textLen.toNat + 1) := by
  induction nows generalizing s with
  | nil =>
    have ⟨_, _, _, _, _, _, _, hphase⟩ := h
    refine ⟨s, rfl, h, ⟨rfl, rfl, rfl, rfl, rfl⟩, ?_⟩
    rw [List.length_nil, Nat.cast_zero, sub_zero, Int.emod_eq_of_lt (by omega) (by omega)]
  | cons now nows ih =>
    obtain ⟨u, hu, -, -, hphase⟩ := h.exec_scUpdate now
    have hsame : SameWindow s u := scrollRegisterWriters _ s u hu
    have ⟨_, hlen, _, htextLen, _⟩ := hsame
    obtain ⟨t, ht, hticks, hsame', hphase'⟩ := ih (h.of_exec hu)
    refine ⟨t, ?_, hticks, hsame.trans hsame', ?_⟩
    · rw [List.map_cons, Machine.runCommands, hu]
      exact ht
    · rw [hphase', hphase, hlen, htextLen, Int.emod_sub_emod, List.length_cons, Nat.cast_succ, Int.sub_sub, add_comm 1]

/-- What a tick sends and where it leaves CURSOR depends on the window, the text and the phase alone. -/
theorem TicksAlways.exec_scUpdate_same {s t : State} (hs : TicksAlways s) (ht : TicksAlways t) (hsame : SameWindow s t)
    (hphase : t.phase = s.phase) (now : Time) :
    ∃ u v es, exec (.scUpdate now) s = .next u ∧ exec (.scUpdate now) t = .next v ∧
      u.trace = s.trace ++ es ∧ v.trace = t.trace ++ es ∧ u.cursor = v.cursor := by
  obtain ⟨u, hu, hutrace, hucursor, -⟩ := hs.exec_scUpdate now
  obtain ⟨v, hv, hvtrace, hvcursor, -⟩ := ht.exec_scUpdate now
  obtain ⟨hstart, hlen, htext, -, -⟩ := hsame
  have hevents : tickEvents t = tickEvents s := by rw [tickEvents, hstart, hlen, htext, hphase, tickEvents]
  rw [hevents] at hvtrace
  rw [hstart, hlen, htext, hphase] at hvcursor
  exact ⟨u, v, _, hu, hv, hutrace, hvtrace, hucursor.trans hvcursor.symm⟩

/-- Settles O37: after n updates the phase is the first one less n, modulo `W + L + 1`. -/
theorem scrollCycleReturns : Obligations.ScrollCycleReturns := by
  intro s hbound hen hdelay hw
  have hs : TicksAlways s := ⟨hbound, hen, hdelay, hw⟩
  obtain ⟨-, -, -, -, hp⟩ := hw
  refine ⟨fun nows hn => ?_, fun nows hn => ?_⟩
  · obtain ⟨t, ht, -, -, hphase⟩ := hs.runCommands nows
    rw [Int.emod_eq_of_lt (by omega) (by omega)] at hphase
    exact ⟨t, ht, by omega⟩
  · obtain ⟨t, ht, hticks, hsame, hphase⟩ := hs.runCommands nows
    rw [hn, Nat.cast_succ, Nat.cast_add, Int.sub_emod_right, Int.emod_eq_of_lt (by omega) (by omega)] at hphase
    have hback : t.phase = s.phase := BitVec.eq_of_toNat_eq (Int.ofNat.inj hphase)
    have ⟨_, hten, _, _⟩ := hticks
    have ⟨hstart, hlen, htext, htextLen, htdelay⟩ := hsame
    exact ⟨t, ht, hback, hstart, hlen, htext, htextLen, htdelay, hten, hs.exec_scUpdate_same hticks hsame hback⟩

/-! ## What a tick and a text change show (R173) -/

/-- A text run that does not come round the end of the cell space (R124). -/
theorem textShown_of_fits {start : Nat} {text : List Byte} (h : start + text.length ≤ 160) (x : Nat) :
    textShown start text x =
      if start ≤ x ∧ x < start + text.length then some (.code (disp (text.getD (x - start) 0).toNat)) else none := by
  simp only [textShown]
  by_cases hx : start ≤ x ∧ x < start + text.length
  · have hk : (x + 160 - start) % 160 = x - start := by omega
    have hidx : x - start + 160 * ((text.length - 1 - (x - start)) / 160) = x - start := by omega
    rw [hk, hidx, if_pos hx, if_pos (by omega)]
  · rw [if_neg hx, if_neg (by omega)]

theorem textShown_nil (start : Nat) : textShown start [] = fun _ => none := funext fun x => by simp [textShown]

/-- A positioned text run whose address is sent again shows each character in its cell, whatever was latched (R121,
R125). -/
theorem Shows.positionedText (text : List Byte) {a : Nat} (h : a < 160) (s : State) :
    Shows (textShown a text) s.ghost (s.emitAll (positionedTextEvents true a text)).ghost := by
  have hcursor : (Machine.addrSet (BitVec.ofNat 8 a) s).cursor.toNat = a := by
    rw [addrSet_eq, State.withCursor_cursor, BitVec.toNat_ofNat]
    omega
  obtain ⟨hrun, -⟩ := Shows.textRun (p := params) rfl text (s := Machine.addrSet (BitVec.ofNat 8 a) s)
    (by rw [CursorInGrid, hcursor]; exact h) (addrSet_cursorLatched _ s)
  have hshow := (Shows.addrSet (BitVec.ofNat 8 a) s).trans hrun
  rw [hcursor, textRun_addrSet params text a s h, params_textAddrAfterEach] at hshow
  simp only [Option.or_none] at hshow
  exact hshow

/-- The window is cleared: each of its cells shows a space (R179). -/
def windowCleared (s w : Nat) : Nat → Option CellView := fun x =>
  if s ≤ x ∧ x < s + w then some (.code 32) else none

/-- A run of spaces that fits clears a window. -/
theorem textShown_spaces {s w : Nat} (h : s + w ≤ 160) : textShown s (List.replicate w 32) = windowCleared s w := by
  funext x
  rw [textShown_of_fits (by simpa using h), List.length_replicate]
  refine if_ctx_congr Iff.rfl (fun hx => ?_) fun _ => rfl
  rw [List.getD_replicate _ (by omega)]
  rfl

/-- `ClearWindow` clears a window that does not cross the end of the cell space (R179). -/
theorem Shows.windowClear {a w : Nat} (h : a < 160) (hw : a + w ≤ 160) (s : State) :
    Shows (windowCleared a w) s.ghost (s.emitAll (windowClearEvents true a w)).ghost :=
  textShown_spaces hw ▸ Shows.positionedText (List.replicate w 32) h s

/-- The slice starts at text character `L - p`, or at 0 while the text is entering (R174). -/
theorem renderSlice_getD {p w i : Nat} {text : List Byte} (h : i < (renderSlice p w text).length) :
    (renderSlice p w text).getD i 0 = text.getD (text.length - p + i) 0 := by
  rw [renderSlice_length] at h
  rw [renderSlice_eq p w 0, List.getD_eq_getElem?_getD, List.getElem?_take_of_lt h, List.getElem?_drop,
    ← List.getD_eq_getElem?_getD, renderPlan_eq]

/-- `Render` draws its slice over what is there, or nothing (R180). -/
theorem Shows.render {p w a : Nat} {text : List Byte} (hw : a + w ≤ 160) (hp : p ≤ w + text.length) (s : State) :
    Shows (textShown (renderStart p a text) (renderSlice p w text)) s.ghost
      (s.emitAll (renderEvents true p w a text)).ghost := by
  unfold renderEvents
  split
  · next hnil =>
    rw [hnil, textShown_nil]
    exact Shows.refl _
  · next hne =>
    have := List.length_pos_iff.mpr hne
    obtain ⟨-, -, hend⟩ := renderPlan_bounds p text.length w a hp
    rw [← renderSlice_length_eq, ← renderStart_eq] at hend
    exact Shows.positionedText _ (by omega) s

/-- The slice over the cleared window is the frame of R173. -/
theorem renderSlice_or_windowCleared {p w a : Nat} {text : List Byte} (hw : a + w ≤ 160) (hp : p ≤ w + text.length)
    (x : Nat) :
    (textShown (renderStart p a text) (renderSlice p w text) x).or (windowCleared a w x) =
      windowShown a w p text x := by
  have hlen : (renderSlice p w text).length = min (w - (p - text.length)) (text.length - (text.length - p)) := by
    rw [renderSlice_length, renderPlan_eq]
  have hstart : renderStart p a text = a + (p - text.length) := by rw [renderStart_eq p w, renderPlan_eq]
  rw [textShown_of_fits (by omega), hstart]
  simp only [windowShown, windowCleared]
  by_cases hx : a ≤ x ∧ x < a + w
  · rw [if_pos hx, if_pos hx]
    by_cases hdrawn : a + (p - text.length) ≤ x ∧ x < a + (p - text.length) + (renderSlice p w text).length
    · rw [if_pos hdrawn, if_pos (by omega), renderSlice_getD (by omega),
        show text.length - p + (x - (a + (p - text.length))) = ((x : Int) - a + text.length - p).toNat by omega]
      rfl
    · rw [if_neg hdrawn, if_neg (by omega)]
      rfl
  · rw [if_neg hx, if_neg hx, if_neg (by omega)]
    rfl

/-- A tick clears the window, then draws the slice (R178). -/
theorem Shows.tickEvents {s : State} (h : WindowLegal s) :
    Shows (windowShown s.areaStart.toNat s.areaLen.toNat s.phase.toNat s.text) s.ghost
      (s.emitAll (tickEvents s)).ghost := by
  obtain ⟨hs, -, hw, htext, hp⟩ := h
  rw [← htext] at hp
  rw [Machine.tickEvents, State.emitAll_append, ← funext (renderSlice_or_windowCleared hw hp)]
  exact (Shows.windowClear hs hw s).trans (Shows.render hw hp _)

/-- The peripheral sees TRACE alone (R12). -/
theorem Shows.of_trace {shown : Nat → Option CellView} {g : Ghost} {s t : State} (h : Shows shown g s.ghost)
    (ht : t.trace = s.trace) : Shows shown g t.ghost := by
  rwa [State.ghost, ht]

/-- Settles O51: the register writes of the tick are not seen by the peripheral. -/
theorem tickShowsFrame : Obligations.TickShowsFrame := by
  intro now s hbound hen hw htime
  have hg : tickGate now s = true := (tickGate_iff now s).mpr ⟨hbound, hen, htime⟩
  exact ⟨_, exec_scUpdate_ticks hg hw, (Shows.tickEvents hw).of_trace <| by
    simp only [State.withPhase_trace, State.withCursor_trace, State.withLastTick_trace]⟩

/-- Settles O52: SC_SET_TEXT draws nothing but the cleared window. -/
theorem setTextLeavesNoStaleCharacter : Obligations.SetTextLeavesNoStaleCharacter := by
  intro text s hbound hlegal _
  obtain ⟨hs, -, hw, -, -⟩ := hlegal
  exact ⟨_, exec_scSetText_eq text hbound hs, (Shows.windowClear hs hw s).of_trace <| by
    simp only [loadText, State.withScEn_trace, State.withCursor_trace, State.withPhase_trace, State.withText_trace]⟩

end Sys2Proof.Machine
end

section
/-! PROOFS. The invariants hold at reset (R221): the base case of what every step keeps. TRACE is empty there, so each
reading of it is the one that reading starts from, and the claim compares that with the reset values of the registers. -/

namespace Sys2Proof.Machine

/-- The reading of an empty TRACE is the ghost's own reset value (R60). -/
@[simp] theorem State.ghost_reset : State.reset.ghost = Ghost.initial := rfl

/-- No window is bound and no optional feature has begun at reset, so what R27 and R32 to R34 ask holds with neither. -/
theorem legal_reset : Legal State.reset where
  cursor := show 0 < Config.nCells by decide
  strobes := ⟨rfl, rfl, rfl⟩
  scroll := fun hbound => absurd hbound Bool.false_ne_true
  optional := ⟨fun _ => rfl, fun _ => ⟨rfl, rfl⟩, iff_of_true rfl rfl⟩
  serial := ⟨rfl, rfl, rfl, rfl⟩

/-- The reset levels of R221 are the ghost's of R60. -/
theorem traceAgrees_reset : TraceAgrees State.reset :=
  .of_ghost State.ghost_reset ⟨rfl, rfl, rfl, rfl, rfl, rfl, rfl⟩

theorem disciplined_nil : Disciplined [] := rfl

/-- SR_CLK rests low at reset, and an empty TRACE expands to no pin event. -/
theorem pinLevelKept_reset : PinLevelKept State.reset := ⟨rfl, fun x y => (State.reset.pins x y).run_nil⟩

/-- Settles O53: nothing is latched at reset, so the latched address is unknown (R231). -/
theorem resetMeetsInvariants : Obligations.ResetMeetsInvariants := by
  have haddr : State.reset.ghost.addr = .undriven := congrArg Ghost.addr State.ghost_reset
  obtain ⟨-, hpins⟩ := pinLevelKept_reset
  exact ⟨legal_reset, traceAgrees_reset, disciplined_nil, haddr, .inl haddr, hpins⟩

end Sys2Proof.Machine
end
